-- ==== Sys2Proof/Word.lean ====
section
/-! DEFINITION. The two fixed widths of the block: the byte and the 32-bit word (00_scope.md R5, R6). -/

namespace Sys2Proof

/-- `BYTE` of R5: 8 bits, unsigned; `+` is the wrapping `+8` of R6. -/
abbrev Byte := BitVec 8

/-- `WORD` of R5: 32 bits, unsigned; `+` and `-` are the wrapping `+32` and `-32` of R6. -/
abbrev Word := BitVec 32

end Sys2Proof
end

