-- ==== Sys2Proof/Config.lean ====
section
/-! DEFINITION. What an implementation fixes (the open parameters of 00_scope.md R5): their types, and the
constants whose value the spec withholds. A constant declared `opaque` here has no body: nothing can be proved
of its value, so a theorem that mentions it holds whatever it is. The values the spec does give stand in
Sys2Proof/Machine/Params.lean. -/

namespace Sys2Proof

/-- `CIPHER_COMBINE` (R73, D13): the operator that joins `F(partner)` with `sum ^ KEY[i]`. -/
inductive Combine where
  | xor
  | add
deriving DecidableEq, Repr

/-- A payload offset that the key table may name. Constraint K1 of R72: "offsets 6–13 and 21–26". -/
structure KeyOffset where
  pos : Nat
  inRange : (6 ≤ pos ∧ pos ≤ 13) ∨ (21 ≤ pos ∧ pos ≤ 26)
deriving DecidableEq, Repr

/-- One place of the key table (R72): a literal byte or a payload byte. -/
inductive KeySource where
  | const (c : Byte)
  | off (o : KeyOffset)
deriving DecidableEq, Repr, Inhabited

/-- `KEYMAP` (R72): the source of byte `j` of key word `i`. -/
abbrev KeyMap := Fin 4 → Fin 4 → KeySource

/-- Constraint K2 of R72: 78, 117 and 126 each occur as a constant, in three different words. -/
def KeyMap.constantsInThreeWords (m : KeyMap) : Prop :=
  ∃ a b c : Fin 4, (a ≠ b ∧ b ≠ c ∧ a ≠ c) ∧
    (∃ j, m a j = .const 78) ∧ (∃ j, m b j = .const 117) ∧ (∃ j, m c j = .const 126)

/-- Constraint K3 of R72, first half: some offset stands at two places. -/
def KeyMap.reusesAnOffset (m : KeyMap) : Prop :=
  ∃ i j i' j' : Fin 4, (i, j) ≠ (i', j') ∧ m i j = m i' j' ∧ ∃ o, m i j = .off o

/-- Constraint K3 of R72, second half: read word by word, the offsets are not ascending. -/
def KeyMap.notAscending (m : KeyMap) : Prop :=
  ∃ i j i' j' : Fin 4, (i < i' ∨ (i = i' ∧ j < j')) ∧
    ∃ o o', m i j = .off o ∧ m i' j' = .off o' ∧ o'.pos < o.pos

/-- A key table with the constraints R72 puts on the device's. K1 stands in `KeyOffset`, K2 (the row `KEY_CONSTS`
of R5) and K3 here; K4, one table for every payload and device, holds of any constant. -/
structure DeviceKeyMap where
  table : KeyMap
  constants : KeyMap.constantsInThreeWords table
  reuses : KeyMap.reusesAnOffset table
  unordered : KeyMap.notAscending table

/-- The parameters of R5 that differ between implementations, as one record. -/
structure Params where
  /-- `KEYMAP` (R72, D14). -/
  keymap : KeyMap
  /-- `CIPHER_COMBINE` (R73, D13). -/
  combine : Combine
  /-- `HEX_LOWER_OK` (R32, D9). -/
  hexLowerOk : Bool
  /-- `TEXT_VALID` (R93, D18). -/
  textValid : List Byte → Bool
  /-- `WS` (R93, D19). -/
  whitespace : List Byte
  /-- `MAX_BUF` (R21, D22); `none` is "unbounded". -/
  maxBuf : Option Nat
  /-- `HAS_IDENT` (R5, R41, D28). -/
  hasIdent : Bool

/-- The device's `KEYMAP`, which the spec withholds (R72, N2): some table with K1 to K4. Free value, log 6. The
argument only says that there is such a table; nothing can be proved of how the value depends on it. -/
opaque Config.keymap [Inhabited DeviceKeyMap] : DeviceKeyMap

/-- Whether the decoder takes `a`..`f` (R32, D9: OPEN). Free value, log 7. -/
opaque Config.hexLowerOk : Bool

/-- What the key words hold after reset (R19, U5: unspecified). DESIGN CHOICE, free value, log 2. -/
opaque Config.keyAtReset : Fin 4 → Word

end Sys2Proof
end

