-- ==== Sys2Proof/Machine/Params.lean ====
section
/-! DEFINITION. The parameter values of 00_scope.md R5 that the spec gives, and the record of the modelled
device: the spec's default where it names one, the free constant of Config where the parameter is OPEN. -/

namespace Sys2Proof.Machine

/-- `ROUNDS` (R5). -/
def rounds : Nat := 16

/-- `DELTA` (R5, R74). -/
def delta : Word := 0x9E3779B9

/-- `DEC_SUM_INIT` (R5, R75). -/
def decSumInit : Word := 0xE3779B90

/-- `BLOCK_BYTES` (R5). -/
def blockBytes : Nat := 8

/-- `PAD_BYTES` (R5, R78). -/
def padBytes : Nat := 32

/-- `HEADER_CHARS` (R5, R36, C1). -/
def headerChars : Nat := 3

/-- `TERM_CHARS` (R5, R36). -/
def termChars : Nat := 2

/-- `MAX_CONTENT` (R5, R52). -/
def maxContent : Nat := 255

/-- The least payload `KEYDERIVE` takes (R71, R82(c), C10). -/
def minKeyPayload : Nat := 32

/-- The least payload `VERIFY` takes (R96). -/
def minVerifyPayload : Nat := 2

/-- The least payload `IDDECODE` takes (R96). -/
def minIdentPayload : Nat := 17

/-- The spec's default `TEXT_VALID`: every byte `<= 0x7F` (R93, D18; log 11). -/
def asciiText (t : List Byte) : Bool := t.all (fun b => decide (b ≤ 0x7F))

/-- The spec's default `WS` (R93, D19, G3; log 12). -/
def asciiWhitespace : List Byte := [0x09, 0x0A, 0x0B, 0x0C, 0x0D, 0x20]

/-- `KEYMAP_EX` of R72: the spec's made-up table "for exercising the mechanism", NOT the device's. It
serves here as the witness that K1 to K3 can be met, and in tests. -/
def keymapEx : KeyMap := fun i j =>
  match i.val, j.val with
  | 0, 0 => .off ⟨6, by decide⟩
  | 0, 1 => .off ⟨7, by decide⟩
  | 0, 2 => .off ⟨8, by decide⟩
  | 0, _ => .const 78
  | 1, 0 => .off ⟨9, by decide⟩
  | 1, 1 => .off ⟨10, by decide⟩
  | 1, 2 => .off ⟨11, by decide⟩
  | 1, _ => .const 117
  | 2, 0 => .off ⟨12, by decide⟩
  | 2, 1 => .off ⟨13, by decide⟩
  | 2, 2 => .off ⟨21, by decide⟩
  | 2, _ => .const 126
  | _, 0 => .off ⟨26, by decide⟩
  | _, 1 => .off ⟨6, by decide⟩
  | _, 2 => .off ⟨13, by decide⟩
  | _, _ => .off ⟨7, by decide⟩

/-- `KEYMAP_EX` satisfies K1 to K3 (R72). -/
def exampleKeyMap : DeviceKeyMap where
  table := keymapEx
  constants := ⟨0, 1, 2, by decide, ⟨3, by decide⟩, ⟨3, by decide⟩, ⟨3, by decide⟩⟩
  reuses := ⟨0, 0, 3, 1, by decide, by decide, ⟨⟨6, by decide⟩, by decide⟩⟩
  unordered := ⟨0, 1, 3, 1, by decide, ⟨⟨7, by decide⟩, ⟨6, by decide⟩, by decide, by decide, by decide⟩⟩

/-- The modelled device. `KEYMAP` and `HEX_LOWER_OK` are OPEN and stay free (log 6, log 7); `MAX_BUF` is taken
unbounded, as R5 allows (DESIGN CHOICE, log 8); the rest are the spec's defaults (log 9, 11, 12, 13). -/
def device : Params where
  keymap := (@Config.keymap ⟨exampleKeyMap⟩).table
  combine := .xor
  hexLowerOk := Config.hexLowerOk
  textValid := asciiText
  whitespace := asciiWhitespace
  maxBuf := none
  hasIdent := true

end Sys2Proof.Machine
end

