-- ==== Sys2Proof/Machine/Operands.lean ====
section
/-! DEFINITION. The operand forms: reading and slicing a byte sequence (00_scope.md R7), the little-endian word
view (R7, R22), the nibbles of a byte, zero padding (43_cipher.md R78), and the 8-bit checksum adder that the
encoder, the verifier and the checksum operations share (40_checksum.md R45). -/

namespace Sys2Proof.Machine

/-- `b[i]` of R7. Every use stands under a length test that puts `i` inside `b`; the value past the end is
never used (log 16). -/
def byteAt (b : List Byte) (i : Nat) : Byte := b.getD i 0

/-- The half-open slice `b[i..j]` of R7. -/
def slice (b : List Byte) (i j : Nat) : List Byte := (b.take j).drop i

/-- `zeros(n)` of R7. -/
def zeros (n : Nat) : List Byte := List.replicate n 0

/-- Four bytes as one word, the first the least significant (R7, R22). -/
def wordOfBytes (b0 b1 b2 b3 : Byte) : Word := b3 ++ b2 ++ b1 ++ b0

/-- `LE32(b, o)` of R7. -/
def le32 (b : List Byte) (o : Nat) : Word :=
  wordOfBytes (byteAt b o) (byteAt b (o + 1)) (byteAt b (o + 2)) (byteAt b (o + 3))

/-- `BYTES_LE(w)` of R7. -/
def bytesLe (w : Word) : List Byte :=
  [w.extractLsb' 0 8, w.extractLsb' 8 8, w.extractLsb' 16 8, w.extractLsb' 24 8]

/-- The high nibble `b[7:4]`. -/
def highNibble (b : Byte) : BitVec 4 := b.extractLsb' 4 4

/-- The low nibble `b[3:0]`. -/
def lowNibble (b : Byte) : BitVec 4 := b.extractLsb' 0 4

/-- `PAD(b)` of R78: zero bytes up to the next multiple of 32, none if already there. -/
def pad (b : List Byte) : List Byte := b ++ zeros ((padBytes - b.length % padBytes) % padBytes)

/-- The fold of R45: 8-bit wrapping addition in index order, starting from `acc` (R48). -/
def chkFold (acc : Byte) (b : List Byte) : Byte := b.foldl (fun s x => s + x) acc

/-- `CHKSUM(b)` of R46. -/
def chkSum (b : List Byte) : Byte := chkFold 0 b

end Sys2Proof.Machine
end

