-- ==== Sys2Proof/Machine/Codec.lean ====
section
/-! DEFINITION. Characters and frame formats (30_encoding.md R30 to R38): hex digits both ways, stripping, the
request layout, the declared length and the byte budget of a response, and the response layout of R35. -/

namespace Sys2Proof.Machine

/-- Space, carriage return, line feed (R30, G1: ASCII values, log 17). -/
def charSP : Byte := 0x20
def charCR : Byte := 0x0D
def charLF : Byte := 0x0A

/-- `DIGIT(n)` of R31. -/
def digitChar (n : BitVec 4) : Byte :=
  if n ≤ 9 then 0x30 + n.setWidth 8 else 0x41 + (n.setWidth 8 - 10)

/-- `HEXENC(b)` of R31: high nibble first, upper case. -/
def hexEnc (b : Byte) : List Byte := [digitChar (highNibble b), digitChar (lowNibble b)]

/-- `HEXVAL(c)` of R32; `none` where it is undefined. `lowerOk` is `HEX_LOWER_OK`. -/
def hexVal (lowerOk : Bool) (c : Byte) : Option Byte :=
  if 0x30 ≤ c ∧ c ≤ 0x39 then some (c - 0x30)
  else if 0x41 ≤ c ∧ c ≤ 0x46 then some (c - 0x41 + 10)
  else if 0x61 ≤ c ∧ c ≤ 0x66 then (if lowerOk then some (c - 0x61 + 10) else none)
  else none

/-- `ISHEX(c)` of R32. -/
def isHex (lowerOk : Bool) (c : Byte) : Bool := (hexVal lowerOk c).isSome

/-- `HEXBYTE` of R32, on two digit values. -/
def hexByte (hi lo : Byte) : Byte := 16 * hi + lo

/-- The value of a character already known to be a hex digit. -/
def digitValue (lowerOk : Bool) (c : Byte) : Byte := (hexVal lowerOk c).getD 0

/-- The three characters that stripping removes (R33). -/
def isStripped (c : Byte) : Bool := c == charSP || c == charCR || c == charLF

/-- `STRIP(s)` of R33. -/
def strip (s : List Byte) : List Byte := s.filter (fun c => !isStripped c)

/-- The pairing of digits in R59 and R61: `p[k] = HEXBYTE(s[2k], s[2k+1])`. -/
def hexPairs (lowerOk : Bool) : List Byte → List Byte
  | a :: b :: rest => hexByte (digitValue lowerOk a) (digitValue lowerOk b) :: hexPairs lowerOk rest
  | _ => []

/-- The offset of the first byte of `s` that is neither stripped nor a hex digit (R59, R100). -/
def firstNonHex (lowerOk : Bool) (s : List Byte) : Option Nat :=
  s.findIdx? (fun c => !isStripped c && !isHex lowerOk c)

/-- The request frame of R34 and R50: `LL CC...CC SS`, no separators. -/
def requestChars (content : List Byte) : List Byte :=
  hexEnc (BitVec.ofNat 8 content.length) ++ content.flatMap hexEnc ++ hexEnc (chkSum content)

/-- `BUDGET(L)` of R36. -/
def budget (len : Nat) : Nat := (len + 1) * 3 + termChars

/-- `TOTAL(L)` of R36: `3L + 8`. -/
def total (len : Nat) : Nat := headerChars + budget len

/-- `L`, read from the first two characters (R36, R56); `none` if one is missing or is no hex digit. -/
def declaredLength (lowerOk : Bool) (raw : List Byte) : Option Nat :=
  match raw with
  | c0 :: c1 :: _ =>
    match hexVal lowerOk c0, hexVal lowerOk c1 with
    | some hi, some lo => some (hexByte hi lo).toNat
    | _, _ => none
  | _ => none

/-- The layout of R35 that fills header and budget exactly: each byte of `[L] ++ content ++ [trailer]` as two
digits and one space, then `CR LF`. -/
def responseChars (content : List Byte) (trailer : Byte) : List Byte :=
  (BitVec.ofNat 8 content.length :: content ++ [trailer]).flatMap (fun b => hexEnc b ++ [charSP])
    ++ [charCR, charLF]

/-- Whether `raw` has a header of two hex digits and exactly the `3L + 8` bytes it declares (R36, R38). -/
def fillsItsBudget (lowerOk : Bool) (raw : List Byte) : Bool :=
  match declaredLength lowerOk raw with
  | some len => raw.length == total len
  | none => false

end Sys2Proof.Machine
end

