-- ==== Sys2Proof/Syntax.lean ====
section
/-! DEFINITION. The instructions, one constructor per row of spec/opcode_table.json, with their operands as
values (30_encoding.md R40), and the encoded forms a host presents. The block has no instruction word: an
operation is a 4-bit `OPSEL` with operand values beside it (R40), a command is an 8-bit number (R39, R40), and
a frame is its characters (R34, R35). -/

namespace Sys2Proof

/-- The rows of the opcode table. -/
inductive Instr where
  /-- `OPSEL` 0x0 (R46). -/
  | chkSum (ibuf : List Byte)
  /-- `OPSEL` 0x1 (R45). -/
  | chkFold (acc : Byte) (ibuf : List Byte)
  /-- `OPSEL` 0x2 (R50). -/
  | encFrame (ibuf : List Byte)
  /-- `OPSEL` 0x3 (R51). -/
  | encCmd (cmd : Byte)
  /-- `OPSEL` 0x4 (R61). -/
  | decFrame (ibuf : List Byte)
  /-- `OPSEL` 0x5 (R90). -/
  | verify (ibuf : List Byte)
  /-- `OPSEL` 0x6 (R92). -/
  | idDecode (ibuf : List Byte)
  /-- `OPSEL` 0x7 (R71). -/
  | keyDerive (ibuf : List Byte)
  /-- `OPSEL` 0x8 (R74). -/
  | encBlk (v0 v1 : Word)
  /-- `OPSEL` 0x9 (R75). -/
  | decBlk (v0 v1 : Word)
  /-- `OPSEL` 0xA (R79). -/
  | encStr (ibuf : List Byte)
  /-- `OPSEL` 0xB (R80). -/
  | decStr (ibuf : List Byte)
  /-- `OPSEL` 0xC, reserved (R41). -/
  | reservedC
  /-- `OPSEL` 0xD, reserved (R41). -/
  | reservedD
  /-- `OPSEL` 0xE, reserved (R41). -/
  | reservedE
  /-- `OPSEL` 0xF, reserved (R41). -/
  | reservedF
  /-- Command 0x00 of the catalogue (R39). -/
  | getIdentity
  /-- A request frame on the wire, by its content bytes (R34). -/
  | requestFrame (content : List Byte)
  /-- A response frame on the wire, by its raw bytes (R35, R36). -/
  | responseFrame (raw : List Byte)
deriving DecidableEq, Repr

/-- The operand values that stand beside an `OPSEL` (R40): each operation reads its own and no others. -/
structure Ports where
  acc : Byte
  cmd : Byte
  v0 : Word
  v1 : Word
  ibuf : List Byte
deriving DecidableEq, Repr

/-- Operand values of zeros and an empty `IBUF`. -/
def Ports.zero : Ports := { acc := 0, cmd := 0, v0 := 0, v1 := 0, ibuf := [] }

/-- What the host presents. `select` is the block's own interface (R40); the other three are the encodings of
the table's rows that carry no `OPSEL` (log 4). -/
inductive Invocation where
  /-- An `OPSEL` code with its operand values (R40). -/
  | select (opsel : BitVec 4) (ports : Ports)
  /-- A command number of the catalogue (R39, R40: "`cmd` is an 8-bit field"). -/
  | command (cmd : Byte)
  /-- The characters of a request frame (R34). -/
  | requestText (chars : List Byte)
  /-- The raw bytes of a response frame (R35, R36). -/
  | responseText (raw : List Byte)
deriving DecidableEq, Repr

/-- Why a presented form is no instruction. -/
inductive DecodeError where
  /-- A command number that names no command of the closed set (R39, R41(b)). -/
  | noSuchCommand
  /-- Characters that are not the request layout of R34. -/
  | notARequestFrame
  /-- Bytes whose header is not two hex digits, or whose number is not `3L + 8` (R36), with those bytes. -/
  | notAResponseFrame (raw : List Byte)
deriving DecidableEq, Repr

/-- What a host does to the block between two operations (R2, R115). -/
inductive HostAction where
  /-- Invoke one operation. -/
  | invoke (inv : Invocation)
  /-- Apply reset, "between operations only" (R115). -/
  | reset
deriving DecidableEq, Repr

end Sys2Proof
end

