-- ==== Sys2Proof/WellFormed.lean ====
section
/-! DEFINITION. Which terms of `Instr` have an encoding. An operation has one for every operand value
(30_encoding.md R40); a request frame's length byte holds at most 255 (R34); a response frame is as long as
its own header says (R36). -/

namespace Sys2Proof

/-- Well-formed instructions. -/
def WellFormed : Instr → Bool
  | .chkSum _ => true
  | .chkFold _ _ => true
  | .encFrame _ => true
  | .encCmd _ => true
  | .decFrame _ => true
  | .verify _ => true
  | .idDecode _ => true
  | .keyDerive _ => true
  | .encBlk _ _ => true
  | .decBlk _ _ => true
  | .encStr _ => true
  | .decStr _ => true
  | .reservedC => true
  | .reservedD => true
  | .reservedE => true
  | .reservedF => true
  | .getIdentity => true
  | .requestFrame content => decide (content.length ≤ Machine.maxContent)
  | .responseFrame raw => Machine.fillsItsBudget Machine.device.hexLowerOk raw

end Sys2Proof
end

