-- ==== Sys2Proof/Decode.lean ====
section
/-! DEFINITION. Decoding a presented form, total, rejecting by name, and the encoder beside it
(30_encoding.md R34, R36, R39, R40, R41). -/

namespace Sys2Proof

/-- The operation an `OPSEL` selects, with its own operands taken from the ports (the table of R40; 0xC to 0xF
by R41(a)). A 4-bit code has no value above 15, which the last arm takes. -/
def decodeSelect (opsel : BitVec 4) (p : Ports) : Instr :=
  match opsel.toNat with
  | 0x0 => .chkSum p.ibuf
  | 0x1 => .chkFold p.acc p.ibuf
  | 0x2 => .encFrame p.ibuf
  | 0x3 => .encCmd p.cmd
  | 0x4 => .decFrame p.ibuf
  | 0x5 => .verify p.ibuf
  | 0x6 => .idDecode p.ibuf
  | 0x7 => .keyDerive p.ibuf
  | 0x8 => .encBlk p.v0 p.v1
  | 0x9 => .decBlk p.v0 p.v1
  | 0xA => .encStr p.ibuf
  | 0xB => .decStr p.ibuf
  | 0xC => .reservedC
  | 0xD => .reservedD
  | 0xE => .reservedE
  | _ => .reservedF

/-- The content of a request text: the bytes between the length byte and the checksum byte, accepted only if
they are laid out as R34 says, character for character. -/
def parseRequest (chars : List Byte) : Option (List Byte) :=
  let content := ((Machine.hexPairs false chars).drop 1).dropLast
  if content.length ≤ Machine.maxContent ∧ Machine.requestChars content = chars then some content else none

/-- The decoder. -/
def decode : Invocation → Except DecodeError Instr
  | .select opsel p => .ok (decodeSelect opsel p)
  | .command cmd => if cmd = 0x00 then .ok .getIdentity else .error .noSuchCommand
  | .requestText chars =>
    match parseRequest chars with
    | some content => .ok (.requestFrame content)
    | none => .error .notARequestFrame
  | .responseText raw =>
    if Machine.fillsItsBudget Machine.device.hexLowerOk raw then .ok (.responseFrame raw)
    else .error (.notAResponseFrame raw)

/-- The `OPSEL` of an operation (R40); none for the rows that have no code. -/
def selectCode : Instr → Option (BitVec 4)
  | .chkSum _ => some 0x0
  | .chkFold _ _ => some 0x1
  | .encFrame _ => some 0x2
  | .encCmd _ => some 0x3
  | .decFrame _ => some 0x4
  | .verify _ => some 0x5
  | .idDecode _ => some 0x6
  | .keyDerive _ => some 0x7
  | .encBlk _ _ => some 0x8
  | .decBlk _ _ => some 0x9
  | .encStr _ => some 0xA
  | .decStr _ => some 0xB
  | .reservedC => some 0xC
  | .reservedD => some 0xD
  | .reservedE => some 0xE
  | .reservedF => some 0xF
  | .getIdentity => none
  | .requestFrame _ => none
  | .responseFrame _ => none

/-- The encoder: an operation as its `OPSEL` with its operands on their ports and zeros on the others, a
command as its number, a frame as its characters. -/
def encode : Instr → Invocation
  | .chkSum b => .select 0x0 { Ports.zero with ibuf := b }
  | .chkFold acc b => .select 0x1 { Ports.zero with acc := acc, ibuf := b }
  | .encFrame b => .select 0x2 { Ports.zero with ibuf := b }
  | .encCmd cmd => .select 0x3 { Ports.zero with cmd := cmd }
  | .decFrame b => .select 0x4 { Ports.zero with ibuf := b }
  | .verify b => .select 0x5 { Ports.zero with ibuf := b }
  | .idDecode b => .select 0x6 { Ports.zero with ibuf := b }
  | .keyDerive b => .select 0x7 { Ports.zero with ibuf := b }
  | .encBlk v0 v1 => .select 0x8 { Ports.zero with v0 := v0, v1 := v1 }
  | .decBlk v0 v1 => .select 0x9 { Ports.zero with v0 := v0, v1 := v1 }
  | .encStr b => .select 0xA { Ports.zero with ibuf := b }
  | .decStr b => .select 0xB { Ports.zero with ibuf := b }
  | .reservedC => .select 0xC Ports.zero
  | .reservedD => .select 0xD Ports.zero
  | .reservedE => .select 0xE Ports.zero
  | .reservedF => .select 0xF Ports.zero
  | .getIdentity => .command 0x00
  | .requestFrame content => .requestText (Machine.requestChars content)
  | .responseFrame raw => .responseText raw

/-- The presented form of an opcode-table word: its bits 3..0 are the `OPSEL` (R40), every operand is zero and
`IBUF` is empty. A command number has no bits of its own beside an `OPSEL` (log 5). -/
def tableInvocation (nbits w : Nat) : Invocation :=
  .select (BitVec.ofNat 4 (w % 2 ^ nbits)) Ports.zero

/-- What the decoder reads from an opcode-table word of `nbits` bits. -/
def decodeTableWord (nbits w : Nat) : Option Instr :=
  match decode (tableInvocation nbits w) with
  | .ok i => some i
  | .error _ => none

end Sys2Proof
end

