-- ==== Sys2Proof/Machine/State.lean ====
section
/-! DEFINITION. The state as plain data. Architectural state is exactly the four key words and `KEY_VALID`
(10_state.md R10); the refusal mark is the one R106 asks of a model; `program` and `response` are the MODEL's
own fields for the host's side of the interface (log 3). The outcome types of 60_exceptions.md R100 stand here
because `response` holds one. -/

namespace Sys2Proof.Machine

/-- `product_type` (R94). -/
inductive ProductType where
  | neptune
  | wave
  | tracker
  | dataLogger
  | n3
  | n3a
  | atlas
  | unknown
deriving DecidableEq, Repr

/-- The identity record (R92). -/
structure IdentityRecord where
  commType : Byte
  versionMajor : BitVec 4
  versionMinor : BitVec 4
  revision : Byte
  /-- The 9 raw bytes of the serial field (D27). -/
  serialRaw : List Byte
  /-- The trimmed length, 0 to 9 (R93). -/
  serialLen : Nat
  hardwareRevision : Byte
  productType : ProductType
  productTypeCode : Byte
  nvramConfig : Byte
deriving DecidableEq, Repr

/-- The result of an operation that ended with `OK` (the last but one column of R40's table). -/
inductive Value where
  /-- `VERIFY`, `KEYDERIVE`: outcome only. -/
  | nothing
  /-- `CHKSUM`, `CHKFOLD`. -/
  | byte (r : Byte)
  /-- `OBUF` of `ENCFRAME`, `ENCCMD`, `ENCSTR`, `DECSTR`. -/
  | buffer (obuf : List Byte)
  /-- `OBUF` and `consumed` of `DECFRAME` (R55). -/
  | payload (obuf : List Byte) (consumed : Nat)
  /-- `IDDECODE`. -/
  | record (r : IdentityRecord)
  /-- `ENCBLK`, `DECBLK`. -/
  | words (v0 v1 : Word)
deriving DecidableEq, Repr

/-- Sub-causes of `TransportError` (R101). -/
inductive TransportCause where
  | shortHeader
  | shortBody
deriving DecidableEq, Repr

/-- Sub-causes of `FramingError` (R102), with the offset in `IBUF` of the first offending byte (R100). -/
inductive FramingCause where
  | badLengthHeader (offset : Nat)
  | nonHexCharacter (offset : Nat)
  | oddDigitCount
deriving DecidableEq, Repr

/-- The four error kinds, with the information R100 says each carries. -/
inductive ErrorKind where
  | transport (cause : TransportCause) (needed available : Nat)
  | framing (cause : FramingCause)
  | checksum (expected computed : Byte)
  | encoding
deriving DecidableEq, Repr

/-- The reasons of `REFUSED` (R106). -/
inductive RefusalReason where
  | illegalOp
  | unknownCommand
  | contentTooLong
  | keyNotValid
  | payloadTooShort
  | bufferTooLong
deriving DecidableEq, Repr

/-- "Every operation ends with exactly one outcome" (R100). -/
inductive OpOutcome where
  | ok (v : Value)
  | error (e : ErrorKind)
  | refused (r : RefusalReason)
deriving DecidableEq, Repr

/-- The 128-bit key: `KEY[0]` to `KEY[3]` (R11). -/
structure Key where
  w0 : Word
  w1 : Word
  w2 : Word
  w3 : Word
deriving DecidableEq, Repr

/-- Reasons to stop with a fault: none. The block has no fault beside its outcomes (R109, 93 "stuck: not used"). -/
inductive Fault where
deriving DecidableEq, Repr

/-- Reasons for which a step has no meaning. -/
inductive Refusal where
  /-- For an instruction that has no meaning yet: raised by nothing, since every arm of `exec` has its meaning
  and a form that names no instruction has an outcome (log 4). Safe. -/
  | notModelled (mnemonic : String)
deriving DecidableEq, Repr

/-- The machine. -/
structure State where
  /-- `KEY[0..3]` (R11). -/
  key : Key
  /-- `KEY_VALID` (R12). -/
  keyValid : Bool
  /-- The mark of R106: some operation was refused, and no later step clears it. -/
  refusedMark : Bool
  /-- The host's coming actions, the next one first. The model's own (log 3). -/
  program : List HostAction
  /-- What the last operation handed to the host. The model's own (log 3); no operation reads it (R18). -/
  response : Option OpOutcome
deriving DecidableEq, Repr

/-- What the key words hold after reset: unspecified (R19); the free constant of Config (log 2). -/
def resetKey : Key :=
  { w0 := Config.keyAtReset 0, w1 := Config.keyAtReset 1, w2 := Config.keyAtReset 2, w3 := Config.keyAtReset 3 }

/-- The machine right after reset (R19, R115): `KEY_VALID = 0`, the key words unspecified, nothing else. -/
def State.reset : State :=
  { key := resetKey, keyValid := false, refusedMark := false, program := [], response := none }

end Sys2Proof.Machine
end

