-- ==== Sys2Proof/Machine/Flags.lean ====
section
/-! DEFINITION. The block has no condition codes and no sticky status (10_state.md R18). What stands in the
place of flags is the outcome of an operation and its 4-bit code (30_encoding.md R42, 60_exceptions.md R100). -/

namespace Sys2Proof.Machine

/-- The code of an error kind (R100). -/
def ErrorKind.code : ErrorKind → BitVec 4
  | .transport _ _ _ => 0x1
  | .framing _ => 0x2
  | .checksum _ _ => 0x3
  | .encoding => 0x4

/-- The code of an outcome (R100): `0x0` is OK, `0xF` is REFUSED. -/
def OpOutcome.code : OpOutcome → BitVec 4
  | .ok _ => 0x0
  | .error e => e.code
  | .refused _ => 0xF

/-- Whether an outcome is one of the four errors. -/
def OpOutcome.isError : OpOutcome → Bool
  | .ok _ => false
  | .error _ => true
  | .refused _ => false

end Sys2Proof.Machine
end

