-- ==== Sys2Proof/Machine/Ops.lean ====
section
/-! DEFINITION. The named operations over the state: how an operation ends (60_exceptions.md R100, R106, R108),
the one write of the key (10_state.md R11, R14), reset (R115), and the buffer-capacity test (20_memory.md R21). -/

namespace Sys2Proof.Machine

/-- `return v` of R8: the operation ends with `OK` and hands over its result (R126). -/
def State.finishOk (s : State) (v : Value) : State := { s with response := some (.ok v) }

/-- `raise` of R8, the block's counterpart of taking an exception (R108): the error outcome goes to the host;
nothing is saved, nothing else changes, and control goes nowhere. There is no handler and so no return from
one: the host's next operation starts from this state (R109). -/
def State.raiseError (s : State) (e : ErrorKind) : State := { s with response := some (.error e) }

/-- `refuse` of R8: the outcome `REFUSED` goes to the host, nothing else changes (R14, R108), and the mark of
R106 is set (log 1). -/
def State.refuse (s : State) (r : RefusalReason) : State :=
  { s with response := some (.refused r), refusedMark := true }

/-- The end of an operation that writes no state (R14). -/
def State.conclude (s : State) : OpOutcome → State
  | .ok v => s.finishOk v
  | .error e => s.raiseError e
  | .refused r => s.refuse r

/-- The end of an operation, as the host's step reads it. -/
def conclude (s : State) (o : OpOutcome) : Host.Outcome State Fault Refusal := .next (s.conclude o)

/-- The only write of the state (R11, R14): all four words at once, and `KEY_VALID`. -/
def State.writeKey (s : State) (k : Key) : State := { s with key := k, keyValid := true }

/-- `KEY[i]` of R8, for `i` in 0..3. -/
def Key.word (k : Key) (i : Nat) : Word :=
  match i with
  | 0 => k.w0
  | 1 => k.w1
  | 2 => k.w2
  | _ => k.w3

/-- The host applies reset between two operations (R115): the block is as R19 says; the host's coming actions
and the mark of a refusal stay (log 15). -/
def State.applyReset (s : State) : State :=
  { State.reset with program := s.program, refusedMark := s.refusedMark }

/-- Whether `n` bytes are within `MAX_BUF` (R21). -/
def bufferFits (P : Params) (n : Nat) : Bool :=
  match P.maxBuf with
  | none => true
  | some m => decide (n ≤ m)

end Sys2Proof.Machine
end

