-- ==== Sys2Proof/Machine/Checksum.lean ====
section
/-! DEFINITION. The checksum generator: CHKFOLD and CHKSUM (40_checksum.md R45, R46). -/

namespace Sys2Proof.Machine

/-- `CHKFOLD` (R45): no error; refused only for a buffer beyond `MAX_BUF`. -/
def opChkFold (P : Params) (acc : Byte) (b : List Byte) : OpOutcome :=
  if bufferFits P b.length then .ok (.byte (chkFold acc b)) else .refused .bufferTooLong

/-- `CHKSUM` (R46): the fold from zero. -/
def opChkSum (P : Params) (b : List Byte) : OpOutcome := opChkFold P 0 b

/-- CHKSUM IBUF -> r (R46). -/
def execChkSum (b : List Byte) (s : State) : Host.Outcome State Fault Refusal :=
  conclude s (opChkSum device b)

/-- CHKFOLD acc, IBUF -> r (R45). -/
def execChkFold (acc : Byte) (b : List Byte) (s : State) : Host.Outcome State Fault Refusal :=
  conclude s (opChkFold device acc b)

end Sys2Proof.Machine
end

