-- ==== Sys2Proof/Machine/Feistel.lean ====
section
/-! DEFINITION. The cipher's datapath: key derivation (43_cipher.md R70 to R72), the mixing function (R73), one
round each way (R74, R75), the block transforms, and the byte-stream wrapper (R78 to R80). -/

namespace Sys2Proof.Machine

/-- The byte a place of the key table stands for, given the payload (R71). -/
def keyByte (p : List Byte) : KeySource → Byte
  | .const c => c
  | .off o => byteAt p o.pos

/-- Key word `i`, little-endian from its four places (R70, R71). -/
def deriveWord (m : KeyMap) (p : List Byte) (i : Fin 4) : Word :=
  wordOfBytes (keyByte p (m i 0)) (keyByte p (m i 1)) (keyByte p (m i 2)) (keyByte p (m i 3))

/-- The key that a payload gives under a key table (R71). -/
def deriveKey (m : KeyMap) (p : List Byte) : Key :=
  { w0 := deriveWord m p 0, w1 := deriveWord m p 1, w2 := deriveWord m p 2, w3 := deriveWord m p 3 }

/-- `F(x)` of R73. -/
def mixF (x : Word) : Word := ((x <<< 4) ^^^ (x >>> 5)) + x

/-- `COMBINE(a, b)` of R73(d). -/
def combineWith : Combine → Word → Word → Word
  | .xor, a, b => a ^^^ b
  | .add, a, b => a + b

/-- `MIX(x, sum, i)` of R73. -/
def mix (c : Combine) (k : Key) (x sum : Word) (i : Nat) : Word := combineWith c (mixF x) (sum ^^^ k.word i)

/-- The index of the first half of a round: `sum & 3`. -/
def firstIndex (sum : Word) : Nat := (sum &&& 3).toNat

/-- The index of the second half: `(sum >> 11) & 3`. -/
def secondIndex (sum : Word) : Nat := ((sum >>> 11) &&& 3).toNat

/-- The transient values of a block operation (R17). -/
structure Lanes where
  v0 : Word
  v1 : Word
  sum : Word
deriving DecidableEq, Repr

/-- One encryption round (R74). -/
def encRound (c : Combine) (k : Key) (l : Lanes) : Lanes :=
  let v0 := l.v0 + mix c k l.v1 l.sum (firstIndex l.sum)
  let sum := l.sum + delta
  { v0 := v0, v1 := l.v1 + mix c k v0 sum (secondIndex sum), sum := sum }

/-- One decryption round (R75). -/
def decRound (c : Combine) (k : Key) (l : Lanes) : Lanes :=
  let v1 := l.v1 - mix c k l.v0 l.sum (secondIndex l.sum)
  let sum := l.sum - delta
  { v0 := l.v0 - mix c k v1 sum (firstIndex sum), v1 := v1, sum := sum }

/-- The block encryption of R74. -/
def encBlock (c : Combine) (k : Key) (v0 v1 : Word) : Word × Word :=
  let l := Nat.iterate (encRound c k) rounds { v0 := v0, v1 := v1, sum := 0 }
  (l.v0, l.v1)

/-- The block decryption of R75. -/
def decBlock (c : Combine) (k : Key) (v0 v1 : Word) : Word × Word :=
  let l := Nat.iterate (decRound c k) rounds { v0 := v0, v1 := v1, sum := decSumInit }
  (l.v0, l.v1)

/-- The eight output bytes of one block (R79): those of `e0`, then those of `e1`. -/
def blockOut (e : Word × Word) : List Byte := bytesLe e.1 ++ bytesLe e.2

/-- The stream loop of R79 over a padded buffer: word `2i` is `v0`, word `2i + 1` is `v1` of block `i`. -/
def streamBlocks (blk : Word → Word → Word × Word) (q : List Byte) : List Byte :=
  (List.range (q.length / blockBytes)).flatMap
    (fun i => blockOut (blk (le32 q (blockBytes * i)) (le32 q (blockBytes * i + 4))))

/-- The byte stream of `ENCSTR` (R79). -/
def encStream (c : Combine) (k : Key) (b : List Byte) : List Byte := streamBlocks (encBlock c k) (pad b)

/-- The byte stream of `DECSTR` (R80): the same padding, the inverse block. -/
def decStream (c : Combine) (k : Key) (b : List Byte) : List Byte := streamBlocks (decBlock c k) (pad b)

end Sys2Proof.Machine
end

