-- ==== Sys2Proof/Machine/Cipher.lean ====
section
/-! DEFINITION. The cipher core's operations: KEYDERIVE, ENCBLK, DECBLK, ENCSTR, DECSTR (43_cipher.md R71, R74,
R75, R79, R80), with their refusals (R82, R83). -/

namespace Sys2Proof.Machine

/-- Why `KEYDERIVE` is refused, if it is (R71, R82(c); the payload is not otherwise checked, R122). -/
def keyDeriveRefusal (P : Params) (p : List Byte) : Option RefusalReason :=
  if p.length < minKeyPayload then some .payloadTooShort
  else if bufferFits P p.length then none
  else some .bufferTooLong

/-- `KEYDERIVE` on the state (R71): the one operation that writes it. -/
def runKeyDerive (P : Params) (p : List Byte) (s : State) : State :=
  match keyDeriveRefusal P p with
  | some r => s.refuse r
  | none => (s.writeKey (deriveKey P.keymap p)).finishOk .nothing

/-- `ENCBLK` (R74), with the state it reads (R83). -/
def opEncBlk (P : Params) (s : State) (v0 v1 : Word) : OpOutcome :=
  if s.keyValid then
    .ok (.words (encBlock P.combine s.key v0 v1).1 (encBlock P.combine s.key v0 v1).2)
  else .refused .keyNotValid

/-- `DECBLK` (R75), with the state it reads (R83). -/
def opDecBlk (P : Params) (s : State) (v0 v1 : Word) : OpOutcome :=
  if s.keyValid then
    .ok (.words (decBlock P.combine s.key v0 v1).1 (decBlock P.combine s.key v0 v1).2)
  else .refused .keyNotValid

/-- `ENCSTR` (R79): the padded length is held against `MAX_BUF`. -/
def opEncStr (P : Params) (s : State) (b : List Byte) : OpOutcome :=
  if !s.keyValid then .refused .keyNotValid
  else if bufferFits P (pad b).length then .ok (.buffer (encStream P.combine s.key b))
  else .refused .bufferTooLong

/-- `DECSTR` (R80): as `ENCSTR`, with the inverse block. -/
def opDecStr (P : Params) (s : State) (b : List Byte) : OpOutcome :=
  if !s.keyValid then .refused .keyNotValid
  else if bufferFits P (pad b).length then .ok (.buffer (decStream P.combine s.key b))
  else .refused .bufferTooLong

/-- KEYDERIVE IBUF (R71). -/
def execKeyDerive (p : List Byte) (s : State) : Host.Outcome State Fault Refusal :=
  .next (runKeyDerive device p s)

/-- ENCBLK v0, v1 -> v0', v1' (R74). -/
def execEncBlk (v0 v1 : Word) (s : State) : Host.Outcome State Fault Refusal :=
  conclude s (opEncBlk device s v0 v1)

/-- DECBLK v0, v1 -> v0', v1' (R75). -/
def execDecBlk (v0 v1 : Word) (s : State) : Host.Outcome State Fault Refusal :=
  conclude s (opDecBlk device s v0 v1)

/-- ENCSTR IBUF -> OBUF (R79). -/
def execEncStr (b : List Byte) (s : State) : Host.Outcome State Fault Refusal :=
  conclude s (opEncStr device s b)

/-- DECSTR IBUF -> OBUF (R80). -/
def execDecStr (b : List Byte) (s : State) : Host.Outcome State Fault Refusal :=
  conclude s (opDecStr device s b)

end Sys2Proof.Machine
end

