-- ==== Sys2Proof/Machine/FrameDecode.lean ====
section
/-! DEFINITION. The frame decoder: DECFRAME (42_frame_decode.md R55 to R66) and the response frame
(30_encoding.md R35, R36). -/

namespace Sys2Proof.Machine

/-- Phases 3 and 4 (R58, R59) on the consumed bytes: strip, test every digit, test the count, pair. -/
def decodeConsumed (lowerOk : Bool) (used : List Byte) : OpOutcome :=
  match firstNonHex lowerOk used with
  | some offset => .error (.framing (.nonHexCharacter offset))
  | none =>
    if (strip used).length % 2 = 1 then .error (.framing .oddDigitCount)
    else .ok (.payload (hexPairs lowerOk (strip used)) used.length)

/-- Phase 2 (R57) and what follows it, once `L` is known. The frame's own size is held against `MAX_BUF`, and
that refusal comes before the short-body test (R61, R107; log 14). -/
def decodeBody (P : Params) (raw : List Byte) (len : Nat) : OpOutcome :=
  if !bufferFits P (total len) then .refused .bufferTooLong
  else if raw.length < total len then .error (.transport .shortBody (total len) raw.length)
  else decodeConsumed P.hexLowerOk (raw.take (total len))

/-- `DECFRAME`, whole (R61), its tests in the order of R64. -/
def opDecFrame (P : Params) (raw : List Byte) : OpOutcome :=
  if raw.length < headerChars then .error (.transport .shortHeader headerChars raw.length)
  else if !isHex P.hexLowerOk (byteAt raw 0) then .error (.framing (.badLengthHeader 0))
  else if !isHex P.hexLowerOk (byteAt raw 1) then .error (.framing (.badLengthHeader 1))
  else
    decodeBody P raw
      (hexByte (digitValue P.hexLowerOk (byteAt raw 0)) (digitValue P.hexLowerOk (byteAt raw 1))).toNat

/-- DECFRAME IBUF -> OBUF, consumed (R61). -/
def execDecFrame (raw : List Byte) (s : State) : Host.Outcome State Fault Refusal :=
  conclude s (opDecFrame device raw)

/-- RESPONSE_FRAME (R35): a response whose bytes are in the buffer, consumed as the decoder does (log 4). -/
def execResponseFrame (raw : List Byte) (s : State) : Host.Outcome State Fault Refusal :=
  conclude s (opDecFrame device raw)

end Sys2Proof.Machine
end

