-- ==== Sys2Proof/Machine/FrameEncode.lean ====
section
/-! DEFINITION. The frame encoder: ENCFRAME, ENCCMD (41_frame_encode.md R50 to R52), the command of the
catalogue (30_encoding.md R39) and the request frame (R34). -/

namespace Sys2Proof.Machine

/-- The content of GET_IDENTITY (R39): the one byte `0x80`. -/
def identityContent : List Byte := [0x80]

/-- The command catalogue (R39, R40): number `0x00` is GET_IDENTITY, and the set is closed. -/
def catalogue (cmd : Byte) : Option (List Byte) := if cmd = 0x00 then some identityContent else none

/-- `ENCFRAME` (R50); the length precondition is R52. -/
def opEncFrame (P : Params) (content : List Byte) : OpOutcome :=
  if maxContent < content.length then .refused .contentTooLong
  else if bufferFits P content.length then .ok (.buffer (requestChars content))
  else .refused .bufferTooLong

/-- `ENCCMD` (R51): look the command up, then frame its fixed content. It takes no buffer, so `MAX_BUF` does
not bear on it (log 14). -/
def opEncCmd (cmd : Byte) : OpOutcome :=
  match catalogue cmd with
  | some content => .ok (.buffer (requestChars content))
  | none => .refused .unknownCommand

/-- ENCFRAME IBUF -> OBUF (R50). -/
def execEncFrame (content : List Byte) (s : State) : Host.Outcome State Fault Refusal :=
  conclude s (opEncFrame device content)

/-- ENCCMD cmd -> OBUF (R51). -/
def execEncCmd (cmd : Byte) (s : State) : Host.Outcome State Fault Refusal :=
  conclude s (opEncCmd cmd)

/-- GET_IDENTITY (R39): the request frame of the catalogue's one command (log 4). -/
def execGetIdentity (s : State) : Host.Outcome State Fault Refusal :=
  conclude s (.ok (.buffer (requestChars identityContent)))

/-- REQUEST_FRAME (R34): the frame of the given content, as the encoder puts it on the wire (log 4). -/
def execRequestFrame (content : List Byte) (s : State) : Host.Outcome State Fault Refusal :=
  conclude s (opEncFrame device content)

end Sys2Proof.Machine
end

