-- ==== Sys2Proof/Machine/Identity.lean ====
section
/-! DEFINITION. The companion unit: VERIFY and IDDECODE (44_identity_decoder.md R90 to R96), present when
`HAS_IDENT` is true and reserved otherwise (30_encoding.md R41(c)). -/

namespace Sys2Proof.Machine

/-- The checksummed region `p[1 .. n-1]` (R90, C11). -/
def checkedRegion (p : List Byte) : List Byte := slice p 1 (p.length - 1)

/-- The trailing byte `p[n-1]` (R90). -/
def trailer (p : List Byte) : Byte := byteAt p (p.length - 1)

/-- `CHK_OK(p)` (R90). -/
def checksumOk (p : List Byte) : Bool := chkSum (checkedRegion p) == trailer p

/-- `ChecksumError(expected = p[n-1], computed)` (R90, R92). -/
def checksumMismatch (p : List Byte) : OpOutcome :=
  .error (.checksum (trailer p) (chkSum (checkedRegion p)))

/-- `PRODUCT(c)` (R94). -/
def productType (c : Byte) : ProductType :=
  match c.toNat with
  | 1 => .neptune
  | 2 => .wave
  | 3 => .tracker
  | 4 => .dataLogger
  | 5 => .n3
  | 6 => .n3a
  | 7 => .atlas
  | _ => .unknown

/-- The serial field `p[5 .. 14]` (R91, R93). -/
def serialField (p : List Byte) : List Byte := slice p 5 14

/-- `TRIMLEN(t)` (R93(b)): the least `k` such that every byte of `t[k ..]` is whitespace. -/
def trimLen (ws t : List Byte) : Nat :=
  ((List.range (t.length + 1)).find? (fun k => (t.drop k).all (fun c => ws.contains c))).getD t.length

/-- The fixed-offset extraction of R92. -/
def identityRecord (ws p : List Byte) : IdentityRecord where
  commType := byteAt p 2
  versionMajor := highNibble (byteAt p 3)
  versionMinor := lowNibble (byteAt p 3)
  revision := byteAt p 4
  serialRaw := serialField p
  serialLen := trimLen ws (serialField p)
  hardwareRevision := byteAt p 14
  productType := productType (byteAt p 15)
  productTypeCode := byteAt p 15
  nvramConfig := byteAt p 16

/-- Why an operation of the companion is refused, if it is: the unit is absent (R41(c)), the payload is too
short (R96), or it is beyond `MAX_BUF` (R21). -/
def companionRefusal (P : Params) (least : Nat) (p : List Byte) : Option RefusalReason :=
  if !P.hasIdent then some .illegalOp
  else if p.length < least then some .payloadTooShort
  else if bufferFits P p.length then none
  else some .bufferTooLong

/-- `VERIFY` (R90). -/
def opVerify (P : Params) (p : List Byte) : OpOutcome :=
  match companionRefusal P minVerifyPayload p with
  | some r => .refused r
  | none => if checksumOk p then .ok .nothing else checksumMismatch p

/-- `IDDECODE` (R92); checksum before text (R95). -/
def opIdDecode (P : Params) (p : List Byte) : OpOutcome :=
  match companionRefusal P minIdentPayload p with
  | some r => .refused r
  | none =>
    if !checksumOk p then checksumMismatch p
    else if !P.textValid (serialField p) then .error .encoding
    else .ok (.record (identityRecord P.whitespace p))

/-- VERIFY IBUF (R90). -/
def execVerify (p : List Byte) (s : State) : Host.Outcome State Fault Refusal :=
  conclude s (opVerify device p)

/-- IDDECODE IBUF -> record (R92). -/
def execIdDecode (p : List Byte) (s : State) : Host.Outcome State Fault Refusal :=
  conclude s (opIdDecode device p)

end Sys2Proof.Machine
end

