-- ==== Sys2Proof/Machine/Reserved.lean ====
section
/-! DEFINITION. The reserved select codes 0xC to 0xF: "the outcome is `REFUSED(IllegalOp)`, nothing is read or
written" (30_encoding.md R41(a), 60_exceptions.md R106). -/

namespace Sys2Proof.Machine

/-- The outcome of a code that selects no operation (R41(a)). -/
def illegalOp : OpOutcome := .refused .illegalOp

/-- RESERVED_C (R41). -/
def execReservedC (s : State) : Host.Outcome State Fault Refusal := conclude s illegalOp

/-- RESERVED_D (R41). -/
def execReservedD (s : State) : Host.Outcome State Fault Refusal := conclude s illegalOp

/-- RESERVED_E (R41). -/
def execReservedE (s : State) : Host.Outcome State Fault Refusal := conclude s illegalOp

/-- RESERVED_F (R41). -/
def execReservedF (s : State) : Host.Outcome State Fault Refusal := conclude s illegalOp

end Sys2Proof.Machine
end

