-- ==== Sys2Proof/Machine/Dispatch.lean ====
section
/-! DEFINITION. One arm per row of the opcode table, in the table's order. -/

namespace Sys2Proof.Machine

def exec (i : Instr) (s : State) : Host.Outcome State Fault Refusal :=
  match i with
  | .chkSum ibuf => Sys2Proof.Machine.execChkSum ibuf s
  | .chkFold acc ibuf => Sys2Proof.Machine.execChkFold acc ibuf s
  | .encFrame ibuf => Sys2Proof.Machine.execEncFrame ibuf s
  | .encCmd cmd => Sys2Proof.Machine.execEncCmd cmd s
  | .decFrame ibuf => Sys2Proof.Machine.execDecFrame ibuf s
  | .verify ibuf => Sys2Proof.Machine.execVerify ibuf s
  | .idDecode ibuf => Sys2Proof.Machine.execIdDecode ibuf s
  | .keyDerive ibuf => Sys2Proof.Machine.execKeyDerive ibuf s
  | .encBlk v0 v1 => Sys2Proof.Machine.execEncBlk v0 v1 s
  | .decBlk v0 v1 => Sys2Proof.Machine.execDecBlk v0 v1 s
  | .encStr ibuf => Sys2Proof.Machine.execEncStr ibuf s
  | .decStr ibuf => Sys2Proof.Machine.execDecStr ibuf s
  | .reservedC => Sys2Proof.Machine.execReservedC s
  | .reservedD => Sys2Proof.Machine.execReservedD s
  | .reservedE => Sys2Proof.Machine.execReservedE s
  | .reservedF => Sys2Proof.Machine.execReservedF s
  | .getIdentity => Sys2Proof.Machine.execGetIdentity s
  | .requestFrame content => Sys2Proof.Machine.execRequestFrame content s
  | .responseFrame raw => Sys2Proof.Machine.execResponseFrame raw s

end Sys2Proof.Machine
end

