-- ==== Sys2Proof/Machine/Undecoded.lean ====
section
/-! DEFINITION. What the block does with a presented form that names no instruction. No form stops the machine:
each ends with an outcome, like every operation (60_exceptions.md R100). -/

namespace Sys2Proof.Machine

/-- The outcome of a form that is no instruction. A number outside the closed set is
`REFUSED(UnknownCommand)` (30_encoding.md R41(b)). Raw response bytes that do not fill their own budget are the
decoder's input all the same, and DECFRAME says what becomes of them (R61, R65). A text that is no request
frame selects nothing, for which R106 has `REFUSED`; the spec names no reason for it (log 4). -/
def undecodedOutcome : DecodeError → OpOutcome
  | .noSuchCommand => .refused .unknownCommand
  | .notARequestFrame => illegalOp
  | .notAResponseFrame raw => opDecFrame device raw

/-- The end of an invocation whose form is no instruction (R108). -/
def execUndecoded (e : DecodeError) (s : State) : Host.Outcome State Fault Refusal :=
  conclude s (undecodedOutcome e)

end Sys2Proof.Machine
end

