-- ==== Sys2Proof/Machine/Step.lean ====
section
/-! DEFINITION. One step: the host's next action is taken from the program and carried out. The block fetches
no instructions (10_state.md R16, 20_memory.md R29); what stands in the place of a fetch is the host's choice
of the next operation (log 3). -/

namespace Sys2Proof.Machine

/-- One step. With no action left the block is idle and holds its state (R126); a reset between operations is
R115; an invocation is decoded and performed whole (R27), and one that names no instruction ends with its outcome
(log 4). -/
def step (s : State) : Host.Outcome State Fault Refusal :=
  match s.program with
  | [] => .next s
  | .reset :: rest => .next ({ s with program := rest } : State).applyReset
  | .invoke inv :: rest =>
    match decode inv with
    | .ok i => exec i { s with program := rest }
    | .error e => execUndecoded e { s with program := rest }

/-- `s` with the operation of an opcode-table word put where `step` takes its next action (log 3). -/
def State.withFetchWord (s : State) (nbits w : Nat) : State :=
  { s with program := .invoke (tableInvocation nbits w) :: s.program.drop 1 }

end Sys2Proof.Machine
end

