-- ==== Sys2Proof/Safety.lean ====
section
/-! DEFINITION. The vocabulary of the claims: what counts as a run the spec speaks of, the invariant of the
machine, and the small machine that holds only the key (10_state.md R10). -/

namespace Sys2Proof.Machine

/-- "A claim about a run that contains a refusal is not a claim about the hardware" (R106): a state is
faithful while no operation has been refused. -/
def State.Faithful (s : State) : Prop := s.refusedMark = false

/-- What `s` becomes when an operation ends with `OK` and writes no state: the result is handed over and every
other field is as before. -/
def State.answers (s : State) (v : Value) : State := { s with response := some (.ok v) }

/-- What `s` becomes when an operation ends with an error (R108). -/
def State.reports (s : State) (e : ErrorKind) : State := { s with response := some (.error e) }

/-- What `s` becomes when an operation is refused (R106, R108). -/
def State.declines (s : State) (r : RefusalReason) : State :=
  { s with response := some (.refused r), refusedMark := true }

/-- The four operations that read the key (R11). -/
def readsKey : Instr → Bool
  | .encBlk _ _ => true
  | .decBlk _ _ => true
  | .encStr _ => true
  | .decStr _ => true
  | _ => false

/-- Whether an outcome is `REFUSED`. -/
def OpOutcome.isRefused : OpOutcome → Bool
  | .refused _ => true
  | _ => false

/-- What the last response says of the state. `payload`: "`len(p) >= 1` and `p[0] = L`", "from 1 up to
`floor(T/2)`", "`consumed`, always `3L + 8`" (R55, R62, R63). `record`: 9 raw bytes and a length 0..9 (R92).
`words`: a block result exists only while a key is held (R83). `refused`: the mark stands (R106). -/
def ResponseFits (s : State) : OpOutcome → Prop
  | .ok (.payload p n) => ∃ len rest, p = len :: rest ∧ n = 3 * len.toNat + 8 ∧ 2 * p.length ≤ n
  | .ok (.record r) => r.serialRaw.length = 9 ∧ r.serialLen ≤ 9
  | .ok (.words _ _) => s.keyValid = true
  | .ok _ => True
  | .error _ => True
  | .refused _ => s.refusedMark = true

/-- The invariant of the machine. A valid key is the key some payload of at least 32 bytes gives (R12, R71),
and the last response fits the state. -/
structure State.Inv (s : State) : Prop where
  keyIsDerived : s.keyValid = true → ∃ p : List Byte, 32 ≤ p.length ∧ s.key = deriveKey device.keymap p
  responseFits : ∀ o, s.response = some o → ResponseFits s o

/-- The key and its valid bit, the whole architectural state (R10). -/
structure KeyState where
  key : Key
  valid : Bool
deriving DecidableEq, Repr

/-- The architectural state inside a model state. -/
def State.keyState (s : State) : KeyState := { key := s.key, valid := s.keyValid }

/-- What one host action does to the architectural state, by R14 and R115 alone: a `KEYDERIVE` that is not
refused writes it, a reset clears it, nothing else touches it. That the words a reset leaves are one constant is
the model's choice (log 2). -/
def KeyState.after (k : KeyState) : HostAction → KeyState
  | .reset => { key := resetKey, valid := false }
  | .invoke inv =>
    match decode inv with
    | .ok (.keyDerive p) =>
      match keyDeriveRefusal device p with
      | none => { key := deriveKey device.keymap p, valid := true }
      | some _ => k
    | _ => k

/-- The accumulator after `r` rounds, without the loop: `r * DELTA mod 2^32` (R77). -/
def roundSum (r : Nat) : Word := BitVec.ofNat 32 (r * 0x9E3779B9)

/-- One mixing term of R73, written out, at accumulator `sum` and key index `i`. -/
def mixTerm (c : Combine) (k : Key) (x sum : Word) (i : Nat) : Word :=
  combineWith c ((BitVec.ofNat 32 (x.toNat * 16) ^^^ BitVec.ofNat 32 (x.toNat / 32)) + x) (sum ^^^ k.word i)

/-- The index of the first half of a round at an accumulator of `n` (R73(b)). -/
def lowIndex (n : Nat) : Nat := n % 4

/-- The index of the second half of a round at an accumulator of `n` (R73(b)). -/
def highIndex (n : Nat) : Nat := n / 2048 % 4

end Sys2Proof.Machine
end

