-- ==== Sys2Proof/Certificates/Slice0/Obligations.lean ====
section
/-! DEFINITION. The statements for the provers, each a `def Obligations.<Name> : Prop`. Where a conclusion is an
equation for `exec`, the right side gives the WHOLE next state: `s.answers v`, `s.reports e` and `s.declines r`
(Safety.lean) change the response (and, for the last, the refusal mark) and nothing else, so the equation is
the frame as well. There is no memory to frame (20_memory.md R20). -/

open Sys2Proof Sys2Proof.Machine

/-! ### Reset, step, decoding -/

/-- 10_state.md R19, 70_reset_and_hazards.md R115: after reset no key is valid. The empty program, the absent
response and the clear mark are the model's choice (log 1, log 3). -/
def Obligations.ResetHoldsNoValidKey : Prop :=
  State.reset.keyValid = false ∧ State.reset.refusedMark = false ∧ State.reset.program = [] ∧
    State.reset.response = none

/-- R115, R12: a reset between two operations clears `KEY_VALID`. The rest is the model's choice: that the key
words are then those of `State.reset`, the same after every reset (R19 leaves them unspecified; log 2), and that
the response goes while what the host still has to do and the mark of a refusal stay (log 15). -/
def Obligations.ResetActionClearsKeyValid : Prop :=
  ∀ (s : State) (rest : List HostAction), s.program = .reset :: rest →
    ∃ t, step s = .next t ∧ t.keyState = State.reset.keyState ∧ t.keyValid = false ∧ t.program = rest ∧
      t.response = none ∧ t.refusedMark = s.refusedMark

/-- A step runs the decoded instruction (R2, R27): when the host's next action is an invocation that decodes to
`i`, the step is `exec i` on the state that has that action behind it; an idle block stays as it is (R126). No
form stops the machine: a command number outside the closed set is refused (R41(b)), response bytes that do not
fill their budget go to DECFRAME as they are (R61), a text that is no request frame selects nothing (R106). How
the host's actions stand in the state, and those forms, are the model's own (log 3, log 4, log 19). -/
def Obligations.StepRunsTheDecodedInvocation : Prop :=
  (∀ (s : State) (inv : Invocation) (rest : List HostAction) (i : Instr),
    s.program = .invoke inv :: rest → decode inv = .ok i → WellFormed i = true →
      step s = exec i { s with program := rest }) ∧
  (∀ s : State, s.program = [] → step s = .next s) ∧
  (∀ (s : State) (cmd : Byte) (rest : List HostAction), s.program = .invoke (.command cmd) :: rest →
    cmd ≠ 0x00 → step s = .next (({ s with program := rest } : State).declines .unknownCommand)) ∧
  (∀ (s : State) (chars : List Byte) (rest : List HostAction) (e : DecodeError),
    s.program = .invoke (.requestText chars) :: rest → decode (.requestText chars) = .error e →
      step s = .next (({ s with program := rest } : State).declines .illegalOp)) ∧
  (∀ (s : State) (raw : List Byte) (rest : List HostAction) (e : DecodeError),
    s.program = .invoke (.responseText raw) :: rest → decode (.responseText raw) = .error e →
      step s = exec (.decFrame raw) { s with program := rest })

/-- 30_encoding.md R40: every `OPSEL` selects its row's operation with its own operands, whatever stands on the
other ports. -/
def Obligations.SelectCodesNameTheTableRows : Prop :=
  ∀ p : Ports,
    decode (.select 0x0 p) = .ok (.chkSum p.ibuf) ∧ decode (.select 0x1 p) = .ok (.chkFold p.acc p.ibuf) ∧
    decode (.select 0x2 p) = .ok (.encFrame p.ibuf) ∧ decode (.select 0x3 p) = .ok (.encCmd p.cmd) ∧
    decode (.select 0x4 p) = .ok (.decFrame p.ibuf) ∧ decode (.select 0x5 p) = .ok (.verify p.ibuf) ∧
    decode (.select 0x6 p) = .ok (.idDecode p.ibuf) ∧ decode (.select 0x7 p) = .ok (.keyDerive p.ibuf) ∧
    decode (.select 0x8 p) = .ok (.encBlk p.v0 p.v1) ∧ decode (.select 0x9 p) = .ok (.decBlk p.v0 p.v1) ∧
    decode (.select 0xA p) = .ok (.encStr p.ibuf) ∧ decode (.select 0xB p) = .ok (.decStr p.ibuf)

/-- Words written out from the opcode table and the wire formats decode to what they stand for: `OPSEL` 0x0,
0x7, 0xB and 0xC, the command 0x00, and "018080". -/
def Obligations.WordsFromTheTableDecode : Prop :=
  decodeTableWord 8 0x0 = some (.chkSum []) ∧ decodeTableWord 8 0x7 = some (.keyDerive []) ∧
  decodeTableWord 8 0xB = some (.decStr []) ∧ decodeTableWord 8 0xC = some .reservedC ∧
  decode (.command 0x00) = .ok .getIdentity ∧
  decode (.requestText [0x30, 0x31, 0x38, 0x30, 0x38, 0x30]) = .ok (.requestFrame [0x80])

/-- Headline: for every well-formed instruction with every operand, decoding its encoding gives it back. The
wire frames are read back from their characters (R34, R36). -/
def Obligations.DecodeInvertsEncode : Prop :=
  ∀ i : Instr, WellFormed i = true → decode (encode i) = .ok i

/-- Everything the decoder accepts is well-formed, and a wire text or a command number has one meaning: the
instruction it decodes to encodes back to that very form (R34, R36, R39). -/
def Obligations.EveryDecodedWireFormIsItsEncoding : Prop :=
  (∀ (inv : Invocation) (i : Instr), decode inv = .ok i → WellFormed i = true) ∧
  (∀ (inv : Invocation) (i : Instr), decode inv = .ok i → (∀ c p, inv ≠ .select c p) → encode i = inv) ∧
  (∀ (c : BitVec 4) (p : Ports) (i : Instr), decode (.select c p) = .ok i → selectCode i = some c)

/-! ### The machine as a whole -/

/-- No instruction stops: every operation ends with exactly one outcome, handed to the host (R100, R125). -/
def Obligations.EveryOperationDeliversOneOutcome : Prop :=
  ∀ (i : Instr) (s : State), ∃ t o, exec i s = .next t ∧ t.response = some o ∧ t.program = s.program ∧
    t.refusedMark = (s.refusedMark || o.isRefused)

/-- 10_state.md R14: only a `KEYDERIVE` that ends with `OK` changes the key or its valid bit, and it overwrites
all of it; every other operation and every other outcome leaves both. -/
def Obligations.OnlyKeyDeriveWritesState : Prop :=
  (∀ (i : Instr) (s t : State), exec i s = .next t →
    t.keyState = s.keyState ∨ ((∃ p, i = .keyDerive p) ∧ ∃ v, t.response = some (.ok v))) ∧
  (∀ (p : List Byte) (s s' t t' : State), exec (.keyDerive p) s = .next t → exec (.keyDerive p) s' = .next t' →
    (∃ v, t.response = some (.ok v)) → t.keyState = t'.keyState)

/-- R12: `KEY_VALID` is cleared by a reset and by nothing else. -/
def Obligations.KeyValidIsClearedOnlyByReset : Prop :=
  ∀ s t : State, step s = .next t → s.keyValid = true → s.program.head? ≠ some .reset → t.keyValid = true

/-- R106: no later step clears the mark of a refusal. (That the mark survives a reset is the model's choice,
log 15.) -/
def Obligations.RefusalMarkIsNeverCleared : Prop :=
  ∀ s t : State, step s = .next t → s.refusedMark = true → t.refusedMark = true

/-- R26: an operation invoked twice with the same operands gives the same outcome and changes nothing more; the
same payload derived twice leaves the same key. -/
def Obligations.OperationsAreIdempotent : Prop :=
  ∀ (i : Instr) (s t : State), exec i s = .next t → exec i t = .next t

/-- R17, R18: an operation's outcome and what it leaves of the state depend on its operands, `KEY` and
`KEY_VALID` alone, not on an earlier outcome, an earlier refusal or what the host will do. -/
def Obligations.OutcomeDependsOnOperandsAndKeyOnly : Prop :=
  ∀ (i : Instr) (s s' t t' : State), s.keyState = s'.keyState → exec i s = .next t → exec i s' = .next t' →
    t.response = t'.response ∧ t.keyState = t'.keyState

/-- R13: no operation but the four cipher operations lets the key be seen: two states that differ in the key
and its valid bit alone get the same outcome. -/
def Obligations.KeyHasNoReadOutPath : Prop :=
  ∀ (i : Instr) (s s' t t' : State), readsKey i = false → exec i s = .next t → exec i s' = .next t' →
    t.response = t'.response

/-- R100 ("raised by"), R101 to R104, R82(a): which operations can raise which error. -/
def Obligations.ErrorKindsAreRaisedOnlyWhereListed : Prop :=
  ∀ (i : Instr) (s t : State) (e : ErrorKind), exec i s = .next t → t.response = some (.error e) →
    ((e.code = 0x1 ∨ e.code = 0x2) ∧ ((∃ b, i = .decFrame b) ∨ ∃ b, i = .responseFrame b)) ∨
    (e.code = 0x3 ∧ ((∃ p, i = .verify p) ∨ ∃ p, i = .idDecode p)) ∨
    (e.code = 0x4 ∧ ∃ p, i = .idDecode p)

/-- The outcome codes of R100. -/
def Obligations.OutcomeCodesAreTheTable : Prop :=
  (∀ v, (OpOutcome.ok v).code = 0x0) ∧ (∀ c n a, (OpOutcome.error (.transport c n a)).code = 0x1) ∧
  (∀ c, (OpOutcome.error (.framing c)).code = 0x2) ∧ (∀ a b, (OpOutcome.error (.checksum a b)).code = 0x3) ∧
  (OpOutcome.error .encoding).code = 0x4 ∧ (∀ r, (OpOutcome.refused r).code = 0xF)

/-- The invariant holds at reset. -/
def Obligations.InvariantHoldsAtReset : Prop := State.reset.Inv

/-- Headline: every step keeps the invariant (R12, R55, R62, R63, R83, R92, R106): a valid key is the key some
payload of at least 32 bytes gives; a delivered payload begins with the length byte its `consumed` comes from
and is at most half as long; a record has 9 serial bytes and a trimmed length of at most 9; a delivered block
means a key is held; a delivered refusal is marked. The response as a field is the model's own (log 3). -/
def Obligations.EveryStepKeepsTheInvariant : Prop :=
  ∀ s t : State, s.Inv → step s = .next t → t.Inv

/-- R14, R27, R115 along a run: after the host's first `n` actions, key and valid bit are what the small machine
that knows only KEYDERIVE and reset makes of them, and the rest of the program is still to come. That a reset
leaves one and the same constant in the key words is the model's choice (R19 leaves them unspecified; log 2, log
15); so is the program as a list (log 3). -/
def Obligations.RunFollowsTheKeyMachine : Prop :=
  ∀ (n : Nat) (s t : State), Host.Core.run core n s = .next t →
    t.keyState = (s.program.take n).foldl KeyState.after s.keyState ∧ t.program = s.program.drop n

/-- R125, R126 ("every operation terminates"): from every state, whatever the host presents, the program runs to
its end, one step an action. The program as a list is the model's own (log 3). -/
def Obligations.EveryProgramRunsToItsEnd : Prop :=
  ∀ s : State, ∃ t, Host.Core.run core s.program.length s = .next t ∧ t.program = []

/-! ### Checksum generator -/

/-- 40_checksum.md R46: `OPSEL` 0x0 is CHKSUM of the `IBUF`, and it hands over the sum of all bytes modulo 256
(a buffer within `MAX_BUF`, R21), reading and writing no state. -/
def Obligations.ChkSumIsTheSumModulo256 : Prop :=
  (∀ p : Ports, decode (.select 0x0 p) = .ok (.chkSum p.ibuf)) ∧
  (∀ (b : List Byte) (s : State), bufferFits device b.length = true →
    exec (.chkSum b) s = .next (s.answers (.byte (BitVec.ofNat 8 (b.map BitVec.toNat).sum))))

/-- R45: CHKFOLD hands over the starting value plus the sum of all bytes, modulo 256. -/
def Obligations.ChkFoldAddsTheBytesToAcc : Prop :=
  ∀ (acc : Byte) (b : List Byte) (s : State), bufferFits device b.length = true →
    exec (.chkFold acc b) s = .next (s.answers (.byte (BitVec.ofNat 8 (acc.toNat + (b.map BitVec.toNat).sum))))

/-- R47 (a) to (e): concatenation, its corollary, permutation, no secret, and what a change of one byte or of
two bytes does. -/
def Obligations.ChecksumLaws : Prop :=
  (∀ a b : List Byte, chkSum (a ++ b) = chkFold (chkFold 0 a) b) ∧
  (∀ a b : List Byte, chkSum (a ++ b) = chkSum a + chkSum b) ∧
  (∀ a b : List Byte, a.Perm b → chkSum a = chkSum b) ∧
  (∀ (b : List Byte) (s s' t t' : State), exec (.chkSum b) s = .next t → exec (.chkSum b) s' = .next t' →
    t.response = t'.response) ∧
  (∀ (b : List Byte) (i : Nat) (d : Byte), i < b.length → d ≠ 0 →
    chkSum (b.set i (byteAt b i + d)) = chkSum b + d ∧ chkSum (b.set i (byteAt b i + d)) ≠ chkSum b) ∧
  (∀ (b : List Byte) (i j : Nat) (d d' : Byte), i < b.length → j < b.length → i ≠ j → d + d' = 0 →
    chkSum ((b.set i (byteAt b i + d)).set j (byteAt b j + d')) = chkSum b)

/-! ### Frame encoder -/

/-- 41_frame_encode.md R50 with the layout table of R34: the frame has `2n + 4` characters, the length first,
then each content byte in order, then the checksum. -/
def Obligations.EncFrameLaysOutTheRequest : Prop :=
  ∀ (c : List Byte) (s : State), c.length ≤ 255 → bufferFits device c.length = true →
    ∃ out, exec (.encFrame c) s = .next (s.answers (.buffer out)) ∧ out.length = 2 * c.length + 4 ∧
      slice out 0 2 = hexEnc (BitVec.ofNat 8 c.length) ∧
      (∀ i, i < c.length → slice out (2 + 2 * i) (4 + 2 * i) = hexEnc (byteAt c i)) ∧
      slice out (2 + 2 * c.length) (4 + 2 * c.length) = hexEnc (chkSum c)

/-- R52: content longer than 255 bytes is refused with no frame, and no command of the catalogue has such a
content. -/
def Obligations.EncFrameRefusesLongContent : Prop :=
  (∀ (c : List Byte) (s : State), 255 < c.length →
    exec (.encFrame c) s = .next (s.declines .contentTooLong)) ∧
  (∀ (cmd : Byte) (c : List Byte), catalogue cmd = some c → c.length = 1)

/-- R53 (a) to (e): the frame's length, its alphabet (so no space and no terminator), its own bytes back by hex
decoding with a checksum that verifies, and that no decoder accepts it as it stands. -/
def Obligations.EncodedFrameProperties : Prop :=
  ∀ c : List Byte, c.length ≤ 255 →
    (requestChars c).length = 2 * c.length + 4 ∧
    (∀ x ∈ requestChars c, (0x30 ≤ x ∧ x ≤ 0x39) ∨ (0x41 ≤ x ∧ x ≤ 0x46)) ∧
    (∀ lowerOk, hexPairs lowerOk (requestChars c) = BitVec.ofNat 8 c.length :: c ++ [chkSum c]) ∧
    (∀ P : Params, P.hasIdent = true → bufferFits P (c.length + 2) = true →
      opVerify P (BitVec.ofNat 8 c.length :: c ++ [chkSum c]) = .ok .nothing) ∧
    (∀ (P : Params) (v : Value), opDecFrame P (requestChars c) ≠ .ok v)

/-- R51, R41(b): `ENCCMD 0x00` gives "018080" and any other number is refused. -/
def Obligations.EncCmdFramesTheOneCommand : Prop :=
  (∀ s : State, exec (.encCmd 0x00) s = .next (s.answers (.buffer [0x30, 0x31, 0x38, 0x30, 0x38, 0x30]))) ∧
  (∀ (cmd : Byte) (s : State), cmd ≠ 0x00 → exec (.encCmd cmd) s = .next (s.declines .unknownCommand))

/-- R39: the command GET_IDENTITY, number 0x00, is the request "018080"; no other number is a command. That the
row is an instruction of its own is the model's choice (log 4). -/
def Obligations.GetIdentityIsItsRequestFrame : Prop :=
  (∀ s : State, exec .getIdentity s = .next (s.answers (.buffer [0x30, 0x31, 0x38, 0x30, 0x38, 0x30]))) ∧
  decode (.command 0x00) = .ok .getIdentity ∧ (∀ c : Byte, c ≠ 0x00 → decode (.command c) = .error .noSuchCommand)

/-- R34: a request frame puts on the wire the characters that decode to it, the ones ENCFRAME gives for its
content. That the row is an instruction of its own is the model's choice (log 4). -/
def Obligations.RequestFrameIsReadBackFromItsCharacters : Prop :=
  ∀ (c : List Byte) (s : State), c.length ≤ 255 → bufferFits device c.length = true →
    ∃ out, exec (.requestFrame c) s = .next (s.answers (.buffer out)) ∧
      exec (.encFrame c) s = .next (s.answers (.buffer out)) ∧
      decode (.requestText out) = .ok (.requestFrame c)

/-! ### Frame decoder -/

/-- R31, R32: hex encoding is two upper-case digits, high nibble first, and reading them back gives the byte
under either value of `HEX_LOWER_OK`. Then the four cases of `HEXVAL` for every character: `0`..`9`, `A`..`F`,
`a`..`f` only under `HEX_LOWER_OK`, and no value for any other; and the characters `ISHEX` holds of. -/
def Obligations.HexDigitsReadBack : Prop :=
  (∀ (b : Byte) (lowerOk : Bool), ∃ hi lo : Byte,
    hexEnc b = [if b.toNat / 16 ≤ 9 then 0x30 + hi else 0x41 + (hi - 10),
      if b.toNat % 16 ≤ 9 then 0x30 + lo else 0x41 + (lo - 10)] ∧
    hi.toNat = b.toNat / 16 ∧ lo.toNat = b.toNat % 16 ∧
    (hexEnc b).map (hexVal lowerOk) = [some hi, some lo] ∧ hexByte hi lo = b) ∧
  (∀ (x : Byte) (lowerOk : Bool),
    (0x30 ≤ x.toNat ∧ x.toNat ≤ 0x39 →
      ∃ v, hexVal lowerOk x = some v ∧ v.toNat = x.toNat - 0x30) ∧
    (0x41 ≤ x.toNat ∧ x.toNat ≤ 0x46 →
      ∃ v, hexVal lowerOk x = some v ∧ v.toNat = x.toNat - 0x41 + 10) ∧
    (0x61 ≤ x.toNat ∧ x.toNat ≤ 0x66 → lowerOk = true →
      ∃ v, hexVal lowerOk x = some v ∧ v.toNat = x.toNat - 0x61 + 10) ∧
    (0x61 ≤ x.toNat ∧ x.toNat ≤ 0x66 → lowerOk = false → hexVal lowerOk x = none) ∧
    (¬ (0x30 ≤ x.toNat ∧ x.toNat ≤ 0x39) → ¬ (0x41 ≤ x.toNat ∧ x.toNat ≤ 0x46) →
      ¬ (0x61 ≤ x.toNat ∧ x.toNat ≤ 0x66) → hexVal lowerOk x = none) ∧
    (isHex lowerOk x = true ↔ (0x30 ≤ x.toNat ∧ x.toNat ≤ 0x39) ∨ (0x41 ≤ x.toNat ∧ x.toNat ≤ 0x46) ∨
      (lowerOk = true ∧ 0x61 ≤ x.toNat ∧ x.toNat ≤ 0x66)))

/-- 42_frame_decode.md R61 with R58 and R59: with a header of two hex digits, `3L + 8` bytes in the buffer and
an even number of hex digits left after stripping them, DECFRAME hands over the bytes those digits pair to,
and `consumed = 3L + 8`. -/
def Obligations.DecFrameDecodesTheConsumedBytes : Prop :=
  ∀ (raw : List Byte) (len : Nat) (s : State),
    declaredLength device.hexLowerOk raw = some len → bufferFits device (3 * len + 8) = true →
    3 * len + 8 ≤ raw.length →
    (∀ c ∈ strip (raw.take (3 * len + 8)), isHex device.hexLowerOk c = true) →
    (strip (raw.take (3 * len + 8))).length % 2 = 0 →
    ∃ p, exec (.decFrame raw) s = .next (s.answers (.payload p (3 * len + 8))) ∧
      2 * p.length = (strip (raw.take (3 * len + 8))).length ∧
      ∀ k, k < p.length → ∃ hi lo : Byte,
        hexVal device.hexLowerOk (byteAt (strip (raw.take (3 * len + 8))) (2 * k)) = some hi ∧
        hexVal device.hexLowerOk (byteAt (strip (raw.take (3 * len + 8))) (2 * k + 1)) = some lo ∧
        (byteAt p k).toNat = 16 * hi.toNat + lo.toNat

/-- R64: the tests in their order, the first that fails deciding: short header, bad header digits, short body,
non-hex character, odd digit count. -/
def Obligations.DecFrameTestsInOrder : Prop :=
  ∀ (raw : List Byte) (s : State),
    (raw.length < 3 → ∃ n a, exec (.decFrame raw) s = .next (s.reports (.transport .shortHeader n a))) ∧
    (3 ≤ raw.length → declaredLength device.hexLowerOk raw = none →
      ∃ o, exec (.decFrame raw) s = .next (s.reports (.framing (.badLengthHeader o)))) ∧
    (∀ len, 3 ≤ raw.length → declaredLength device.hexLowerOk raw = some len →
      bufferFits device (3 * len + 8) = true →
      (raw.length < 3 * len + 8 →
        ∃ n a, exec (.decFrame raw) s = .next (s.reports (.transport .shortBody n a))) ∧
      (3 * len + 8 ≤ raw.length →
        (∃ c ∈ strip (raw.take (3 * len + 8)), isHex device.hexLowerOk c = false) →
        ∃ o, exec (.decFrame raw) s = .next (s.reports (.framing (.nonHexCharacter o)))) ∧
      (3 * len + 8 ≤ raw.length →
        (∀ c ∈ strip (raw.take (3 * len + 8)), isHex device.hexLowerOk c = true) →
        (strip (raw.take (3 * len + 8))).length % 2 = 1 →
        exec (.decFrame raw) s = .next (s.reports (.framing .oddDigitCount))))

/-- R66: exactly which inputs succeed, for every value of the parameters; and what stripping is (R33): space,
CR and LF go, wherever they stand, and every other character stays, as often as it stood and in its place. -/
def Obligations.DecFrameSucceedsExactlyWhen : Prop :=
  (∀ (P : Params) (raw : List Byte),
    (∃ v, opDecFrame P raw = .ok v) ↔
      3 ≤ raw.length ∧ ∃ len, declaredLength P.hexLowerOk raw = some len ∧
        bufferFits P (3 * len + 8) = true ∧ 3 * len + 8 ≤ raw.length ∧
        (∀ c ∈ strip (raw.take (3 * len + 8)), isHex P.hexLowerOk c = true) ∧
        (strip (raw.take (3 * len + 8))).length % 2 = 0) ∧
  (∀ s : List Byte, (strip s).Sublist s ∧
    (∀ x, x ∈ strip s ↔ x ∈ s ∧ x ≠ 0x20 ∧ x ≠ 0x0D ∧ x ≠ 0x0A) ∧
    (∀ x, (strip s).count x = if x = 0x20 ∨ x = 0x0D ∨ x = 0x0A then 0 else s.count x))

/-- R62: on every OK outcome the payload begins with the length byte; a frame of the layout of R35 decodes to
length byte, content and checksum byte. -/
def Obligations.PayloadBeginsWithTheLengthByte : Prop :=
  (∀ (P : Params) (raw p : List Byte) (n : Nat), opDecFrame P raw = .ok (.payload p n) →
    1 ≤ p.length ∧ declaredLength P.hexLowerOk raw = some (byteAt p 0).toNat) ∧
  (∀ (P : Params) (c : List Byte) (x : Byte), c.length ≤ 255 → bufferFits P (3 * c.length + 8) = true →
    opDecFrame P (responseChars c x) =
      .ok (.payload (BitVec.ofNat 8 c.length :: c ++ [x]) (3 * c.length + 8)))

/-- R57, R65: bytes at and beyond `3L + 8` change nothing. -/
def Obligations.DecFrameReadsNothingBeyondItsBudget : Prop :=
  ∀ (P : Params) (raw extra : List Byte) (len : Nat),
    declaredLength P.hexLowerOk raw = some len → 3 * len + 8 ≤ raw.length →
    opDecFrame P (raw ++ extra) = opDecFrame P raw

/-- R63: the decoder compares neither the checksum nor the payload's length: whatever the trailer byte, the
frame decodes, and "01 80 80 80 CR" with two more bytes gives four payload bytes where `L + 2` is three. -/
def Obligations.DecFrameChecksNoTrailerAndNoCount : Prop :=
  (∀ (c : List Byte) (x : Byte) (s : State), c.length ≤ 255 → bufferFits device (3 * c.length + 8) = true →
    exec (.decFrame (responseChars c x)) s =
      .next (s.answers (.payload (BitVec.ofNat 8 c.length :: c ++ [x]) (3 * c.length + 8)))) ∧
  (∀ s : State, bufferFits device 11 = true →
    exec (.decFrame [0x30, 0x31, 0x20, 0x38, 0x30, 0x20, 0x38, 0x30, 0x20, 0x38, 0x30, 0x20, 0x0D]) s =
      .next (s.answers (.payload [0x01, 0x80, 0x80, 0x80] 11)))

/-- R35, R36: a response that fills its budget and holds an even number of hex digits beside the stripped
characters is consumed whole; the layout of R35 is such a response for every content and trailer; and one with
a character that is no digit, or with an odd number of digits, is a FramingError (R59). On all bytes the row does
what DECFRAME does. That it is an instruction of its own is the model's choice (log 4). -/
def Obligations.ResponseFrameIsConsumedWhole : Prop :=
  (∀ (raw : List Byte) (s : State), WellFormed (.responseFrame raw) = true →
    bufferFits device raw.length = true → (∀ c ∈ strip raw, isHex device.hexLowerOk c = true) →
    (strip raw).length % 2 = 0 →
    ∃ p, exec (.responseFrame raw) s = .next (s.answers (.payload p raw.length)) ∧
      2 * p.length = (strip raw).length ∧ p = hexPairs device.hexLowerOk (strip raw)) ∧
  (∀ (c : List Byte) (x : Byte) (s : State), c.length ≤ 255 → bufferFits device (3 * c.length + 8) = true →
    WellFormed (.responseFrame (responseChars c x)) = true ∧
    exec (.responseFrame (responseChars c x)) s =
      .next (s.answers (.payload (BitVec.ofNat 8 c.length :: c ++ [x]) (3 * c.length + 8)))) ∧
  (∀ (raw : List Byte) (s : State), WellFormed (.responseFrame raw) = true →
    bufferFits device raw.length = true →
    ((∃ c ∈ strip raw, isHex device.hexLowerOk c = false) →
      ∃ o, exec (.responseFrame raw) s = .next (s.reports (.framing (.nonHexCharacter o)))) ∧
    ((∀ c ∈ strip raw, isHex device.hexLowerOk c = true) → (strip raw).length % 2 = 1 →
      exec (.responseFrame raw) s = .next (s.reports (.framing .oddDigitCount)))) ∧
  (∀ (raw : List Byte) (s : State), exec (.responseFrame raw) s = exec (.decFrame raw) s)

/-- R121, the exchange from the wire on: a response that carries any content with its checksum decodes, its
payload verifies, and it is the payload the encoder's own frame stands for (R53(d)). -/
def Obligations.AnsweredFrameDecodesAndVerifies : Prop :=
  ∀ (P : Params) (c : List Byte), c.length ≤ 255 → P.hasIdent = true → bufferFits P (3 * c.length + 8) = true →
    ∃ p, opDecFrame P (responseChars c (chkSum c)) = .ok (.payload p (3 * c.length + 8)) ∧
      opVerify P p = .ok .nothing ∧ hexPairs P.hexLowerOk (requestChars c) = p

/-! ### Payload verifier and identity decoder -/

/-- 44_identity_decoder.md R90: every payload of at least two bytes is a length byte, a region and a trailer;
VERIFY ends with OK exactly when the region's sum modulo 256 is the trailer, whatever the length byte, and
with ChecksumError otherwise. The two bytes it carries are the spec's aid for a host (R100, log 20). -/
def Obligations.VerifyComparesRegionWithTrailer : Prop :=
  ∀ (len : Byte) (region : List Byte) (x : Byte) (s : State), device.hasIdent = true →
    bufferFits device (region.length + 2) = true →
    ((region.map BitVec.toNat).sum % 256 = x.toNat →
      exec (.verify (len :: region ++ [x])) s = .next (s.answers .nothing)) ∧
    ((region.map BitVec.toNat).sum % 256 ≠ x.toNat →
      exec (.verify (len :: region ++ [x])) s =
        .next (s.reports (.checksum x (BitVec.ofNat 8 (region.map BitVec.toNat).sum))))

/-- R96: the minimum lengths. -/
def Obligations.CompanionRefusesShortPayloads : Prop :=
  ∀ (p : List Byte) (s : State), device.hasIdent = true →
    (p.length < 2 → exec (.verify p) s = .next (s.declines .payloadTooShort)) ∧
    (p.length < 17 → exec (.idDecode p) s = .next (s.declines .payloadTooShort))

/-- R92 with the layout of R91: the record IDDECODE hands over, field by field, from the payload's bytes. -/
def Obligations.IdDecodeExtractsTheFields : Prop :=
  ∀ (p : List Byte) (s : State), device.hasIdent = true → 17 ≤ p.length → bufferFits device p.length = true →
    checksumOk p = true → device.textValid (slice p 5 14) = true →
    ∃ r : IdentityRecord, exec (.idDecode p) s = .next (s.answers (.record r)) ∧
      some r.commType = p[2]? ∧ p[3]?.map BitVec.toNat = some (16 * r.versionMajor.toNat + r.versionMinor.toNat) ∧
      some r.revision = p[4]? ∧ r.serialRaw.length = 9 ∧ (∀ k, k < 9 → r.serialRaw[k]? = p[5 + k]?) ∧
      r.serialLen = trimLen device.whitespace r.serialRaw ∧ some r.hardwareRevision = p[14]? ∧
      some r.productTypeCode = p[15]? ∧ r.productType = productType r.productTypeCode ∧
      some r.nvramConfig = p[16]?

/-- R93(b): `TRIMLEN` is the least `k` from which on every byte is whitespace, for every whitespace set. -/
def Obligations.TrimLenIsTheLeastCut : Prop :=
  ∀ ws t : List Byte, trimLen ws t ≤ t.length ∧ (∀ c ∈ t.drop (trimLen ws t), c ∈ ws) ∧
    (∀ k, (∀ c ∈ t.drop k, c ∈ ws) → trimLen ws t ≤ k)

/-- R94: the seven product codes; every other code, 0 included, is Unknown, and it does not make decoding
fail. -/
def Obligations.ProductCodesAreTheTable : Prop :=
  (productType 1 = .neptune ∧ productType 2 = .wave ∧ productType 3 = .tracker ∧ productType 4 = .dataLogger ∧
    productType 5 = .n3 ∧ productType 6 = .n3a ∧ productType 7 = .atlas) ∧
  (∀ c : Byte, productType c = .unknown ↔ c = 0 ∨ 8 ≤ c) ∧
  (∀ (p : List Byte) (s : State), device.hasIdent = true → 17 ≤ p.length → bufferFits device p.length = true →
    checksumOk p = true → device.textValid (slice p 5 14) = true →
    ∃ r : IdentityRecord, exec (.idDecode p) s = .next (s.answers (.record r)) ∧
      r.productType = productType (byteAt p 15))

/-- R93(a), R95, R104: with a good checksum, a serial field that is not valid text is EncodingError; with a bad
checksum the outcome is ChecksumError whatever the text. -/
def Obligations.IdDecodeErrorsInOrder : Prop :=
  ∀ (p : List Byte) (s : State), device.hasIdent = true → 17 ≤ p.length → bufferFits device p.length = true →
    (checksumOk p = true → device.textValid (slice p 5 14) = false →
      exec (.idDecode p) s = .next (s.reports .encoding)) ∧
    (checksumOk p = false → ∃ e c, exec (.idDecode p) s = .next (s.reports (.checksum e c)))

/-- R95 ("Mutating any single byte within the checksummed region"): from a payload whose checksum holds, a
change of one byte of the region or of the trailer gives ChecksumError, and a change of the length byte keeps
the outcome. -/
def Obligations.SingleByteMutationIsDetected : Prop :=
  ∀ (p : List Byte) (k : Nat) (x : Byte) (s : State), device.hasIdent = true → 17 ≤ p.length →
    bufferFits device p.length = true → checksumOk p = true →
    (1 ≤ k → k < p.length → x ≠ byteAt p k →
      ∃ e c, exec (.idDecode (p.set k x)) s = .next (s.reports (.checksum e c))) ∧
    exec (.idDecode (p.set 0 x)) s = exec (.idDecode p) s

/-! ### Cipher core -/

/-- 43_cipher.md R71, R70: KEYDERIVE on at least 32 bytes writes all four words and the valid bit; byte `j` of
word `i` is the constant or the payload byte that `KEYMAP` names for it. -/
def Obligations.KeyDeriveAssemblesTheKey : Prop :=
  ∀ (p : List Byte) (s : State), 32 ≤ p.length → bufferFits device p.length = true →
    ∃ k : Key, exec (.keyDerive p) s =
        .next { s with key := k, keyValid := true, response := some (.ok .nothing) } ∧
      ∀ i j : Fin 4,
        (∀ c, device.keymap i j = .const c → (k.word i.val).extractLsb' (8 * j.val) 8 = c) ∧
        (∀ o, device.keymap i j = .off o → p[o.pos]? = some ((k.word i.val).extractLsb' (8 * j.val) 8))

/-- R82(c): fewer than 32 bytes are refused and the old key stays. -/
def Obligations.KeyDeriveRefusesShortPayloads : Prop :=
  ∀ (p : List Byte) (s : State), p.length < 32 →
    exec (.keyDerive p) s = .next (s.declines .payloadTooShort)

/-- R71, R72 (K1): under every table, two payloads that agree on offsets 6 to 13 and 21 to 26 give the same
key. -/
def Obligations.KeyDependsOnNamedOffsetsOnly : Prop :=
  ∀ (m : KeyMap) (p p' : List Byte),
    (∀ o, (6 ≤ o ∧ o ≤ 13) ∨ (21 ≤ o ∧ o ≤ 26) → byteAt p o = byteAt p' o) →
    deriveKey m p = deriveKey m p'

/-- R72 (K2), R5 (`KEY_CONSTS`): under every table that has 78, 117 and 126 in three different words, the derived
key has those bytes in three different words, whatever the payload. The device's table has K2 and K3, so the key
that KEYDERIVE writes has those bytes. That the device's free table carries K2 and K3 in its type, and that K3's
"may stand at more than one place" is read as some offset really standing at two places, is the model's choice and
reading (log 6). -/
def Obligations.KeyHoldsTheThreeConstants : Prop :=
  (∀ (m : KeyMap) (p : List Byte), KeyMap.constantsInThreeWords m →
    ∃ a b c : Fin 4, (a ≠ b ∧ b ≠ c ∧ a ≠ c) ∧
      (∃ j : Fin 4, ((deriveKey m p).word a.val).extractLsb' (8 * j.val) 8 = 78) ∧
      (∃ j : Fin 4, ((deriveKey m p).word b.val).extractLsb' (8 * j.val) 8 = 117) ∧
      (∃ j : Fin 4, ((deriveKey m p).word c.val).extractLsb' (8 * j.val) 8 = 126)) ∧
  (KeyMap.constantsInThreeWords device.keymap ∧ KeyMap.reusesAnOffset device.keymap ∧
    KeyMap.notAscending device.keymap) ∧
  (∀ (p : List Byte) (s : State), 32 ≤ p.length → bufferFits device p.length = true →
    ∃ k : Key, exec (.keyDerive p) s =
        .next { s with key := k, keyValid := true, response := some (.ok .nothing) } ∧
      ∃ a b c : Fin 4, (a ≠ b ∧ b ≠ c ∧ a ≠ c) ∧
        (∃ j : Fin 4, (k.word a.val).extractLsb' (8 * j.val) 8 = 78) ∧
        (∃ j : Fin 4, (k.word b.val).extractLsb' (8 * j.val) 8 = 117) ∧
        (∃ j : Fin 4, (k.word c.val).extractLsb' (8 * j.val) 8 = 126))

/-- R74, R73: with a valid key ENCBLK hands over the last pair of the 16 rounds: `v0` grows by the mix of `v1`
at the accumulator before the advance, then `v1` by the mix of the new `v0` at the accumulator after it. -/
def Obligations.EncBlkRunsSixteenRounds : Prop :=
  ∀ (v0 v1 : Word) (s : State), s.keyValid = true →
    ∃ a b : Nat → Word, a 0 = v0 ∧ b 0 = v1 ∧
      (∀ r, r < 16 →
        a (r + 1) = a r + mixTerm device.combine s.key (b r) (roundSum r) (lowIndex (roundSum r).toNat) ∧
        b (r + 1) = b r + mixTerm device.combine s.key (a (r + 1)) (roundSum (r + 1))
          (highIndex (roundSum (r + 1)).toNat)) ∧
      exec (.encBlk v0 v1) s = .next (s.answers (.words (a 16) (b 16)))

/-- R75: with a valid key DECBLK walks the same 16 rounds from the last to the first, subtracting. -/
def Obligations.DecBlkRunsTheRoundsBackwards : Prop :=
  ∀ (v0 v1 : Word) (s : State), s.keyValid = true →
    ∃ a b : Nat → Word, a 16 = v0 ∧ b 16 = v1 ∧
      (∀ r, r < 16 →
        b r = b (r + 1) - mixTerm device.combine s.key (a (r + 1)) (roundSum (r + 1))
          (highIndex (roundSum (r + 1)).toNat) ∧
        a r = a (r + 1) - mixTerm device.combine s.key (b r) (roundSum r) (lowIndex (roundSum r).toNat)) ∧
      exec (.decBlk v0 v1) s = .next (s.answers (.words (a 0) (b 0)))

/-- R76: each block transform inverts the other, for every key, every pair and either operator. -/
def Obligations.BlockTransformsAreInverse : Prop :=
  ∀ (c : Combine) (k : Key) (v0 v1 : Word),
    decBlock c k (encBlock c k v0 v1).1 (encBlock c k v0 v1).2 = (v0, v1) ∧
    encBlock c k (decBlock c k v0 v1).1 (decBlock c k v0 v1).2 = (v0, v1)

/-- R77: the accumulator depends on the round alone, up in encryption and down in decryption, and the table of
accumulators and indices. -/
def Obligations.AccumulatorScheduleIsFixed : Prop :=
  (∀ (c : Combine) (k : Key) (v0 v1 : Word) (r : Nat), r ≤ 16 →
    (Nat.iterate (encRound c k) r { v0 := v0, v1 := v1, sum := 0 }).sum = roundSum r ∧
    (Nat.iterate (decRound c k) r { v0 := v0, v1 := v1, sum := decSumInit }).sum = roundSum (16 - r)) ∧
  (List.range 16).map (fun r => (roundSum (r + 1), firstIndex (roundSum r), secondIndex (roundSum (r + 1)))) =
    [(0x9E3779B9, 0, 3), (0x3C6EF372, 1, 2), (0xDAA66D2B, 2, 1), (0x78DDE6E4, 3, 0), (0x1715609D, 0, 0),
      (0xB54CDA56, 1, 3), (0x5384540F, 2, 2), (0xF1BBCDC8, 3, 1), (0x8FF34781, 0, 0), (0x2E2AC13A, 1, 0),
      (0xCC623AF3, 2, 3), (0x6A99B4AC, 3, 2), (0x08D12E65, 0, 1), (0xA708A81E, 1, 1), (0x454021D7, 2, 0),
      (0xE3779B90, 3, 3)]

/-- R78: padding keeps the bytes, adds zero bytes only, and ends at the least multiple of 32 that is not below
the length. -/
def Obligations.PadReachesTheNextMultipleOf32 : Prop :=
  ∀ b : List Byte, (pad b).length % 32 = 0 ∧ b.length ≤ (pad b).length ∧ (pad b).length < b.length + 32 ∧
    (pad b).take b.length = b ∧ ∀ x ∈ (pad b).drop b.length, x = 0

/-- R79, R22, R24: with a valid key ENCSTR hands over as many bytes as the padded input, and the 8 bytes of
block `i` are the little-endian words of the encryption of block `i`, each block on its own. -/
def Obligations.EncStrEncryptsBlockByBlock : Prop :=
  ∀ (b : List Byte) (s : State), s.keyValid = true → bufferFits device (pad b).length = true →
    ∃ out, exec (.encStr b) s = .next (s.answers (.buffer out)) ∧ out.length = (pad b).length ∧
      ∀ i, 8 * i < (pad b).length →
        (le32 out (8 * i), le32 out (8 * i + 4)) =
          encBlock device.combine s.key (le32 (pad b) (8 * i)) (le32 (pad b) (8 * i + 4))

/-- R80: DECSTR likewise, with the inverse block. -/
def Obligations.DecStrDecryptsBlockByBlock : Prop :=
  ∀ (b : List Byte) (s : State), s.keyValid = true → bufferFits device (pad b).length = true →
    ∃ out, exec (.decStr b) s = .next (s.answers (.buffer out)) ∧ out.length = (pad b).length ∧
      ∀ i, 8 * i < (pad b).length →
        (le32 out (8 * i), le32 out (8 * i + 4)) =
          decBlock device.combine s.key (le32 (pad b) (8 * i)) (le32 (pad b) (8 * i + 4))

/-- R81 (a) to (e), for every key and either operator: lengths, each operation undoing the other up to the
padding (and exactly where there is none), the padding unseen, and splitting at a multiple of 32. -/
def Obligations.StreamLaws : Prop :=
  ∀ (c : Combine) (k : Key),
    (∀ b, (encStream c k b).length = (pad b).length ∧ (decStream c k b).length = (pad b).length) ∧
    (∀ b, decStream c k (encStream c k b) = pad b ∧
      (b.length % 32 = 0 → decStream c k (encStream c k b) = b) ∧
      (decStream c k (encStream c k b)).take b.length = b ∧
      ∀ x ∈ (decStream c k (encStream c k b)).drop b.length, x = 0) ∧
    (∀ b, encStream c k (decStream c k b) = pad b) ∧
    (∀ b, encStream c k b = encStream c k (pad b)) ∧
    (∀ a b : List Byte, a.length % 32 = 0 → encStream c k (a ++ b) = encStream c k a ++ encStream c k b)

/-- R83: while no key is valid the four cipher operations are refused, with no output, whatever the key words
hold. -/
def Obligations.CipherNeedsAValidKey : Prop :=
  ∀ s : State, s.keyValid = false →
    (∀ v0 v1, exec (.encBlk v0 v1) s = .next (s.declines .keyNotValid) ∧
      exec (.decBlk v0 v1) s = .next (s.declines .keyNotValid)) ∧
    (∀ b, exec (.encStr b) s = .next (s.declines .keyNotValid) ∧
      exec (.decStr b) s = .next (s.declines .keyNotValid))

/-! ### Reserved codes and parameters -/

/-- R41(a): a reserved code decodes to its own row whatever its ports hold, and its whole effect is that the
outcome REFUSED(IllegalOp) is handed over and the refusal marked; nothing is read or written. That REFUSED is a next state is the model's
reading (log 1). -/
def Obligations.ReservedCodesAreRefused : Prop :=
  ∀ (p : Ports) (s : State),
    (decode (.select 0xC p) = .ok .reservedC ∧ decode (.select 0xD p) = .ok .reservedD ∧
      decode (.select 0xE p) = .ok .reservedE ∧ decode (.select 0xF p) = .ok .reservedF) ∧
    exec .reservedC s = .next (s.declines .illegalOp) ∧ exec .reservedD s = .next (s.declines .illegalOp) ∧
    exec .reservedE s = .next (s.declines .illegalOp) ∧ exec .reservedF s = .next (s.declines .illegalOp)

/-- R41(c), R21, R106 (`BufferTooLong`), R61, R79: for every value of the parameters: without the companion VERIFY and IDDECODE are
illegal operations, and with a finite `MAX_BUF` a longer buffer is refused. Which of two reasons is reported
is the model's choice (log 14). -/
def Obligations.AbsentCompanionAndFiniteBuffersRefuse : Prop :=
  (∀ (P : Params) (p : List Byte), P.hasIdent = false →
    opVerify P p = .refused .illegalOp ∧ opIdDecode P p = .refused .illegalOp) ∧
  (∀ (P : Params) (m : Nat) (acc : Byte) (b : List Byte), P.maxBuf = some m → m < b.length →
    opChkSum P b = .refused .bufferTooLong ∧ opChkFold P acc b = .refused .bufferTooLong ∧
    (b.length ≤ 255 → opEncFrame P b = .refused .bufferTooLong) ∧
    (∀ s : State, 32 ≤ b.length → runKeyDerive P b s = s.declines .bufferTooLong) ∧
    (P.hasIdent = true → 2 ≤ b.length → opVerify P b = .refused .bufferTooLong) ∧
    (P.hasIdent = true → 17 ≤ b.length → opIdDecode P b = .refused .bufferTooLong)) ∧
  (∀ (P : Params) (m : Nat) (s : State) (b : List Byte), P.maxBuf = some m → m < (pad b).length →
    s.keyValid = true →
    opEncStr P s b = .refused .bufferTooLong ∧ opDecStr P s b = .refused .bufferTooLong) ∧
  (∀ (P : Params) (m len : Nat) (raw : List Byte), P.maxBuf = some m → 3 ≤ raw.length →
    declaredLength P.hexLowerOk raw = some len → m < 3 * len + 8 →
    opDecFrame P raw = .refused .bufferTooLong)
end

