-- ==== Sys2Proof/Laws/State.lean ====
section
/-! SUPPORT. One lemma per field per update of the state, each true by rfl, so that no proof unfolds a record
update. -/

namespace Sys2Proof.Machine

@[simp] theorem finishOk_key (s : State) (v : Value) : (s.finishOk v).key = s.key := rfl
@[simp] theorem finishOk_keyValid (s : State) (v : Value) : (s.finishOk v).keyValid = s.keyValid := rfl
@[simp] theorem finishOk_refusedMark (s : State) (v : Value) : (s.finishOk v).refusedMark = s.refusedMark := rfl
@[simp] theorem finishOk_program (s : State) (v : Value) : (s.finishOk v).program = s.program := rfl
@[simp] theorem finishOk_response (s : State) (v : Value) : (s.finishOk v).response = some (.ok v) := rfl

@[simp] theorem raiseError_key (s : State) (e : ErrorKind) : (s.raiseError e).key = s.key := rfl
@[simp] theorem raiseError_keyValid (s : State) (e : ErrorKind) : (s.raiseError e).keyValid = s.keyValid := rfl
@[simp] theorem raiseError_refusedMark (s : State) (e : ErrorKind) : (s.raiseError e).refusedMark = s.refusedMark := rfl
@[simp] theorem raiseError_program (s : State) (e : ErrorKind) : (s.raiseError e).program = s.program := rfl
@[simp] theorem raiseError_response (s : State) (e : ErrorKind) : (s.raiseError e).response = some (.error e) := rfl

@[simp] theorem refuse_key (s : State) (r : RefusalReason) : (s.refuse r).key = s.key := rfl
@[simp] theorem refuse_keyValid (s : State) (r : RefusalReason) : (s.refuse r).keyValid = s.keyValid := rfl
@[simp] theorem refuse_refusedMark (s : State) (r : RefusalReason) : (s.refuse r).refusedMark = true := rfl
@[simp] theorem refuse_program (s : State) (r : RefusalReason) : (s.refuse r).program = s.program := rfl
@[simp] theorem refuse_response (s : State) (r : RefusalReason) : (s.refuse r).response = some (.refused r) := rfl

@[simp] theorem writeKey_key (s : State) (k : Key) : (s.writeKey k).key = k := rfl
@[simp] theorem writeKey_keyValid (s : State) (k : Key) : (s.writeKey k).keyValid = true := rfl
@[simp] theorem writeKey_refusedMark (s : State) (k : Key) : (s.writeKey k).refusedMark = s.refusedMark := rfl
@[simp] theorem writeKey_program (s : State) (k : Key) : (s.writeKey k).program = s.program := rfl
@[simp] theorem writeKey_response (s : State) (k : Key) : (s.writeKey k).response = s.response := rfl

@[simp] theorem applyReset_key (s : State) : (s.applyReset).key = resetKey := rfl
@[simp] theorem applyReset_keyValid (s : State) : (s.applyReset).keyValid = false := rfl
@[simp] theorem applyReset_refusedMark (s : State) : (s.applyReset).refusedMark = s.refusedMark := rfl
@[simp] theorem applyReset_program (s : State) : (s.applyReset).program = s.program := rfl
@[simp] theorem applyReset_response (s : State) : (s.applyReset).response = none := rfl

/-- The claims' name for the update is the model's. -/
theorem answers_eq (s : State) (v : Value) : s.answers v = s.finishOk v := rfl

/-- The claims' name for the update is the model's. -/
theorem reports_eq (s : State) (e : ErrorKind) : s.reports e = s.raiseError e := rfl

/-- The claims' name for the update is the model's. -/
theorem declines_eq (s : State) (r : RefusalReason) : s.declines r = s.refuse r := rfl

@[simp] theorem keyState_key (s : State) : s.keyState.key = s.key := rfl
@[simp] theorem keyState_valid (s : State) : s.keyState.valid = s.keyValid := rfl

@[simp] theorem withFetchWord_key (s : State) (nbits w : Nat) : (s.withFetchWord nbits w).key = s.key := rfl
@[simp] theorem withFetchWord_keyValid (s : State) (nbits w : Nat) :
    (s.withFetchWord nbits w).keyValid = s.keyValid := rfl
@[simp] theorem withFetchWord_refusedMark (s : State) (nbits w : Nat) :
    (s.withFetchWord nbits w).refusedMark = s.refusedMark := rfl
@[simp] theorem withFetchWord_program (s : State) (nbits w : Nat) :
    (s.withFetchWord nbits w).program = .invoke (tableInvocation nbits w) :: s.program.drop 1 := rfl
@[simp] theorem withFetchWord_response (s : State) (nbits w : Nat) :
    (s.withFetchWord nbits w).response = s.response := rfl

end Sys2Proof.Machine
end

