-- ==== Sys2Proof/Laws/Ops.lean ====
section
/-! SUPPORT. For each shared operation, one lemma that says once what it can do. -/

namespace Sys2Proof.Machine

/-! ### The end of an operation -/

@[simp] theorem conclude_key (s : State) (o : OpOutcome) : (s.conclude o).key = s.key := by
  cases o <;> rfl

@[simp] theorem conclude_keyValid (s : State) (o : OpOutcome) : (s.conclude o).keyValid = s.keyValid := by
  cases o <;> rfl

@[simp] theorem conclude_program (s : State) (o : OpOutcome) : (s.conclude o).program = s.program := by
  cases o <;> rfl

@[simp] theorem conclude_response (s : State) (o : OpOutcome) : (s.conclude o).response = some o := by
  cases o <;> rfl

@[simp] theorem conclude_refusedMark (s : State) (o : OpOutcome) :
    (s.conclude o).refusedMark = (s.refusedMark || o.isRefused) := by
  cases o <;> simp [State.conclude, OpOutcome.isRefused]

/-- All that the end of an operation can be. -/
theorem conclude_next {s t : State} {o : OpOutcome} (h : conclude s o = .next t) : t = s.conclude o := by
  simpa [conclude] using h.symm

/-! ### KEYDERIVE -/

/-- All that KEYDERIVE can do: refuse and leave the key, or write all of it (R14). -/
theorem runKeyDerive_cases (P : Params) (p : List Byte) (s : State) :
    (∃ r, keyDeriveRefusal P p = some r ∧ runKeyDerive P p s = s.refuse r) ∨
    (keyDeriveRefusal P p = none ∧
      runKeyDerive P p s = (s.writeKey (deriveKey P.keymap p)).finishOk .nothing) := by
  unfold runKeyDerive
  cases h : keyDeriveRefusal P p with
  | some r => exact .inl ⟨r, rfl, rfl⟩
  | none => exact .inr ⟨rfl, rfl⟩

/-- When KEYDERIVE is not refused (R71, R82(c)). -/
theorem keyDeriveRefusal_none (P : Params) (p : List Byte) :
    keyDeriveRefusal P p = none ↔ 32 ≤ p.length ∧ bufferFits P p.length = true := by
  unfold keyDeriveRefusal minKeyPayload
  split
  · constructor
    · simp
    · omega
  · split <;> simp_all

/-- When the companion unit does not refuse (R41(c), R96, R21). -/
theorem companionRefusal_none (P : Params) (least : Nat) (p : List Byte) :
    companionRefusal P least p = none ↔
      P.hasIdent = true ∧ least ≤ p.length ∧ bufferFits P p.length = true := by
  unfold companionRefusal
  by_cases h1 : P.hasIdent = true
  · by_cases h2 : p.length < least
    · simp [h1, h2]
    · have h2' : least ≤ p.length := by omega
      by_cases h3 : bufferFits P p.length = true <;> simp [h1, h2, h2', h3]
  · simp [h1]

/-! ### Instructions -/

/-- All that an instruction can do: end with an outcome that its operands, the key and its valid bit fix, and
write no state, or be KEYDERIVE. -/
theorem exec_cases (i : Instr) (s : State) :
    (∃ o, exec i s = .next (s.conclude o)) ∨
    (∃ p, i = .keyDerive p ∧ exec i s = .next (runKeyDerive device p s)) := by
  cases i with
  | keyDerive p => exact .inr ⟨p, rfl, rfl⟩
  | _ => exact .inl ⟨_, rfl⟩

/-! ### The step -/

/-- All that a step can do when it answers a next state: idle, reset, the decoded instruction, or the outcome of
a form that is none. -/
theorem step_cases {s t : State} (h : step s = .next t) :
    (s.program = [] ∧ t = s) ∨
    (∃ rest, s.program = .reset :: rest ∧ t = ({ s with program := rest } : State).applyReset) ∨
    (∃ inv rest i, s.program = .invoke inv :: rest ∧ decode inv = .ok i ∧
      exec i { s with program := rest } = .next t) ∨
    (∃ inv rest e, s.program = .invoke inv :: rest ∧ decode inv = .error e ∧
      t = ({ s with program := rest } : State).conclude (undecodedOutcome e)) := by
  unfold step at h
  split at h
  · next hp => exact .inl ⟨hp, by simpa using h.symm⟩
  · next rest hp => exact .inr (.inl ⟨rest, hp, by simpa using h.symm⟩)
  · next inv rest hp =>
    split at h
    · next i hd => exact .inr (.inr (.inl ⟨inv, rest, i, hp, hd, h⟩))
    · next e hd => exact .inr (.inr (.inr ⟨inv, rest, e, hp, hd, conclude_next h⟩))

/-- No step stops: it answers a next state, with one action less to do. -/
theorem step_next (s : State) : ∃ t, step s = .next t ∧ t.program = s.program.tail := by
  unfold step
  split
  · next hp => exact ⟨s, rfl, by simp [hp]⟩
  · next rest hp => exact ⟨_, rfl, by simp [hp]⟩
  · next inv rest hp =>
    split
    · next i _ =>
      rcases exec_cases i { s with program := rest } with ⟨o, h⟩ | ⟨p, rfl, h⟩
      · exact ⟨_, h, by simp [hp]⟩
      · refine ⟨_, h, ?_⟩
        rcases runKeyDerive_cases device p { s with program := rest } with ⟨r, _, hr⟩ | ⟨_, hr⟩ <;> simp [hr, hp]
    · exact ⟨_, rfl, by simp [hp]⟩

/-- A run of `n + 1` steps whose first step answers a next state. -/
theorem run_succ_next (n : Nat) {s t : State} (h : step s = .next t) :
    Host.Core.run core (n + 1) s = Host.Core.run core n t := by
  have h' : core.step s = .next t := h
  have e := Host.Core.run.eq_def core (n + 1) s
  simp only [h'] at e
  exact e

/-- All that a run of `n + 1` steps can be when it answers a next state. -/
theorem run_succ_cases (n : Nat) {s t : State} (h : Host.Core.run core (n + 1) s = .next t) :
    ∃ s', step s = .next s' ∧ Host.Core.run core n s' = .next t := by
  rw [Host.Core.run.eq_def core (n + 1) s] at h
  simp only at h
  cases hs : core.step s with
  | next s' => rw [hs] at h; exact ⟨s', hs, h⟩
  | fault r => rw [hs] at h; cases h
  | refused r => rw [hs] at h; cases h

/-! ### Operands and characters -/

@[simp] theorem chkFold_nil (acc : Byte) : chkFold acc [] = acc := rfl

@[simp] theorem chkFold_cons (acc x : Byte) (b : List Byte) : chkFold acc (x :: b) = chkFold (acc + x) b := rfl

@[simp] theorem hexEnc_length (b : Byte) : (hexEnc b).length = 2 := rfl

@[simp] theorem bytesLe_length (w : Word) : (bytesLe w).length = 4 := rfl

@[simp] theorem blockOut_length (e : Word × Word) : (blockOut e).length = 8 := rfl

@[simp] theorem zeros_length (n : Nat) : (zeros n).length = n := by simp [zeros]

/-- `TOTAL(L)` is `3L + 8` (R36). -/
theorem total_eq (len : Nat) : total len = 3 * len + 8 := by
  unfold total budget headerChars termChars
  omega

/-- A word taken apart into its little-endian bytes and put together again (R7). -/
theorem wordOfBytes_bytesLe (w : Word) :
    wordOfBytes (w.extractLsb' 0 8) (w.extractLsb' 8 8) (w.extractLsb' 16 8) (w.extractLsb' 24 8) = w := by
  unfold wordOfBytes
  ext i hi
  rw [← BitVec.getLsbD_eq_getElem (x := w)]
  simp only [BitVec.getElem_append, BitVec.getElem_extractLsb', Nat.sub_sub]
  split
  · simp
  · split
    · congr 1; omega
    · split <;> congr 1 <;> omega

/-! ### The cipher -/

/-- One decryption round undoes one encryption round, whatever the key and the operator (R76). -/
theorem decRound_encRound (c : Combine) (k : Key) (l : Lanes) : decRound c k (encRound c k l) = l := by
  simp [decRound, encRound]

/-- One encryption round undoes one decryption round. -/
theorem encRound_decRound (c : Combine) (k : Key) (l : Lanes) : encRound c k (decRound c k l) = l := by
  simp [decRound, encRound]

end Sys2Proof.Machine
end

