-- ==== Sys2Proof/Laws/Codec.lean ====
section
/-! SUPPORT. The small lemmas of the character codec, and what the decoder can do, phase by phase
(42_frame_decode.md R56 to R61). -/

namespace Sys2Proof.Machine

/-- The decoder's reading of an encoder's digit is its nibble, under either value of `HEX_LOWER_OK`. -/
theorem hexVal_digitChar (lowerOk : Bool) (n : BitVec 4) : hexVal lowerOk (digitChar n) = some (n.setWidth 8) := by
  revert n lowerOk
  decide

/-- A hex digit has a value. -/
theorem hexVal_of_isHex {lowerOk : Bool} {x : Byte} (h : isHex lowerOk x = true) :
    hexVal lowerOk x = some (digitValue lowerOk x) := by
  unfold isHex at h
  unfold digitValue
  cases hx : hexVal lowerOk x with
  | none => rw [hx] at h; cases h
  | some v => rfl

@[simp] theorem strip_append (a b : List Byte) : strip (a ++ b) = strip a ++ strip b := by simp [strip]

/-- Pairing takes two digits a byte. -/
theorem hexPairs_length (lowerOk : Bool) : ∀ s : List Byte, (hexPairs lowerOk s).length = s.length / 2
  | [] => rfl
  | [_] => by simp [hexPairs]
  | _ :: _ :: rest => by
    simp only [hexPairs, List.length_cons, hexPairs_length lowerOk rest]
    omega

/-- The search of R59 finds nothing exactly if every character left after stripping is a hex digit. -/
theorem firstNonHex_eq_none (lowerOk : Bool) (used : List Byte) :
    firstNonHex lowerOk used = none ↔ ∀ x ∈ strip used, isHex lowerOk x = true := by
  simp only [firstNonHex, List.findIdx?_eq_none_iff, strip, List.mem_filter]
  constructor
  · rintro h x ⟨hx, hs⟩
    have hn := h x hx
    cases h1 : isStripped x <;> cases h2 : isHex lowerOk x <;> simp_all
  · intro h x hx
    have hn := h x
    cases h1 : isStripped x <;> cases h2 : isHex lowerOk x <;> simp_all

/-- A header of three bytes either holds two digits and declares their value, or holds a character that is no
digit and declares nothing (R56). -/
theorem declaredLength_cases (lowerOk : Bool) (raw : List Byte) (h : 3 ≤ raw.length) :
    (declaredLength lowerOk raw = none ∧
      (isHex lowerOk (byteAt raw 0) = false ∨ isHex lowerOk (byteAt raw 1) = false)) ∨
    (isHex lowerOk (byteAt raw 0) = true ∧ isHex lowerOk (byteAt raw 1) = true ∧
      declaredLength lowerOk raw =
        some (hexByte (digitValue lowerOk (byteAt raw 0)) (digitValue lowerOk (byteAt raw 1))).toNat) := by
  match raw, h with
  | x :: y :: _ :: _, _ =>
    simp only [declaredLength, isHex, byteAt, digitValue, List.getD_cons_zero, List.getD_cons_succ]
    cases hx : hexVal lowerOk x <;> cases hy : hexVal lowerOk y <;> simp

/-- DECFRAME on fewer than three bytes. -/
theorem opDecFrame_short (P : Params) (raw : List Byte) (h : raw.length < 3) :
    opDecFrame P raw = .error (.transport .shortHeader 3 raw.length) := by
  unfold opDecFrame
  rw [if_pos (by simpa [headerChars] using h)]
  rfl

/-- DECFRAME on a header that declares no length. -/
theorem opDecFrame_bad_header (P : Params) (raw : List Byte) (h : 3 ≤ raw.length)
    (hd : declaredLength P.hexLowerOk raw = none) :
    ∃ offset, opDecFrame P raw = .error (.framing (.badLengthHeader offset)) := by
  unfold opDecFrame
  rw [if_neg (by simpa [headerChars] using h)]
  rcases declaredLength_cases P.hexLowerOk raw h with ⟨_, h0 | h1⟩ | ⟨_, _, hs⟩
  · exact ⟨0, by simp [h0]⟩
  · by_cases h0 : isHex P.hexLowerOk (byteAt raw 0) = true
    · exact ⟨1, by simp [h0, h1]⟩
    · exact ⟨0, by simp [h0]⟩
  · rw [hd] at hs; cases hs

/-- DECFRAME on a header that declares a length goes on to the body. -/
theorem opDecFrame_body (P : Params) (raw : List Byte) (len : Nat) (h : 3 ≤ raw.length)
    (hd : declaredLength P.hexLowerOk raw = some len) : opDecFrame P raw = decodeBody P raw len := by
  rcases declaredLength_cases P.hexLowerOk raw h with ⟨hn, _⟩ | ⟨h0, h1, hs⟩
  · rw [hd] at hn; cases hn
  · rw [hd] at hs
    cases hs
    unfold opDecFrame
    rw [if_neg (by simpa [headerChars] using h)]
    simp [h0, h1]

end Sys2Proof.Machine
end

