-- ==== Sys2Proof/Laws/PerInstr.lean ====
section
/-! SUPPORT. A statement about every instruction as syntax, one lemma per constructor: an instruction's
encoding carries the select code of its row, and a row without a code has an encoding without one
(30_encoding.md R40). -/

namespace Sys2Proof.Laws.CarriesItsSelectCode

/-- The encoding of `i` is a select with `i`'s code exactly if `i` has one. -/
def Statement (i : Instr) : Prop :=
  ∀ c, selectCode i = some c ↔ ∃ p, encode i = .select c p

theorem select {i : Instr} {c : BitVec 4} {p : Ports} (hc : selectCode i = some c)
    (he : encode i = .select c p) : Statement i := by
  intro d
  rw [hc, he]
  constructor
  · rintro h
    cases h
    exact ⟨p, rfl⟩
  · rintro ⟨q, h⟩
    cases h
    rfl

theorem wire {i : Instr} (hc : selectCode i = none) (he : ∀ c p, encode i ≠ .select c p) : Statement i := by
  intro d
  rw [hc]
  constructor
  · intro h
    cases h
  · rintro ⟨p, h⟩
    exact absurd h (he d p)

theorem chkSum (b : List Byte) : Statement (.chkSum b) := select rfl rfl
theorem chkFold (acc : Byte) (b : List Byte) : Statement (.chkFold acc b) := select rfl rfl
theorem encFrame (b : List Byte) : Statement (.encFrame b) := select rfl rfl
theorem encCmd (cmd : Byte) : Statement (.encCmd cmd) := select rfl rfl
theorem decFrame (b : List Byte) : Statement (.decFrame b) := select rfl rfl
theorem verify (b : List Byte) : Statement (.verify b) := select rfl rfl
theorem idDecode (b : List Byte) : Statement (.idDecode b) := select rfl rfl
theorem keyDerive (b : List Byte) : Statement (.keyDerive b) := select rfl rfl
theorem encBlk (v0 v1 : Word) : Statement (.encBlk v0 v1) := select rfl rfl
theorem decBlk (v0 v1 : Word) : Statement (.decBlk v0 v1) := select rfl rfl
theorem encStr (b : List Byte) : Statement (.encStr b) := select rfl rfl
theorem decStr (b : List Byte) : Statement (.decStr b) := select rfl rfl
theorem reservedC : Statement .reservedC := select rfl rfl
theorem reservedD : Statement .reservedD := select rfl rfl
theorem reservedE : Statement .reservedE := select rfl rfl
theorem reservedF : Statement .reservedF := select rfl rfl
theorem getIdentity : Statement .getIdentity := wire rfl (fun _ _ h => by cases h)
theorem requestFrame (c : List Byte) : Statement (.requestFrame c) := wire rfl (fun _ _ h => by cases h)
theorem responseFrame (raw : List Byte) : Statement (.responseFrame raw) := wire rfl (fun _ _ h => by cases h)

end Sys2Proof.Laws.CarriesItsSelectCode
end

