-- ==== Sys2Proof/Tests/Slice0.lean ====
section
/-! SUPPORT. Tests on the spec's own vectors (95_test_vectors.md, named at each test), the refusals of
WellFormed, the decoding of every constructor from its code, and a witness for the hypotheses of every
statement that has some. -/

namespace Sys2Proof.Tests

open Sys2Proof.Machine

/-- What an operation hands to the host. -/
def handed : Host.Outcome State Fault Refusal → Option OpOutcome
  | .next t => t.response
  | _ => none

/-- The state with a given valid key. -/
def keyed (k : Key) : State := { State.reset with key := k, keyValid := true }

/-- The key of V-CIP-2. -/
def keyCip : Key := { w0 := 0x00010203, w1 := 0x04050607, w2 := 0x08090A0B, w3 := 0x0C0D0E0F }

/-- The identity payload of S3. -/
def s3 : List Byte :=
  [0x1E, 0x00, 0x05, 0x10, 0x03, 0x59, 0x31, 0x38, 0x33, 0x36, 0x34, 0x31, 0x20, 0x20, 0x02, 0x07, 0x01, 0x00,
    0x20, 0x01, 0x00, 0x00, 0x00, 0x00, 0x00, 0x00, 0x00, 0x20, 0x05, 0x00, 0x00, 0x38]

/-- A device with the companion absent and with `add` for the operator, and a table of constants. -/
def small : Params :=
  { keymap := fun _ _ => .const 0, combine := .add, hexLowerOk := true, textValid := fun _ => true,
    whitespace := [], maxBuf := some 0, hasIdent := false }

/-! ### WellFormed refuses each ill-formed term -/

theorem test_wf_long_request : WellFormed (.requestFrame (List.replicate 256 0)) = false := by decide +kernel

theorem test_wf_response_not_hex : WellFormed (.responseFrame [0x5A, 0x5A, 0x20]) = false := by decide

/-- Seven bytes where the header `00` declares eight. -/
theorem test_wf_response_short :
    WellFormed (.responseFrame [0x30, 0x30, 0x20, 0x30, 0x30, 0x20, 0x0D]) = false := by decide

/-! ### Decoding, from the codes of R40 and the layouts of R34 and R35 -/

theorem test_decode_chkSum : decodeTableWord 8 0b0000 = some (.chkSum []) := by decide
theorem test_decode_chkFold : decodeTableWord 8 0b0001 = some (.chkFold 0 []) := by decide
theorem test_decode_encFrame : decodeTableWord 8 0b0010 = some (.encFrame []) := by decide
theorem test_decode_encCmd : decodeTableWord 8 0b0011 = some (.encCmd 0) := by decide
theorem test_decode_decFrame : decodeTableWord 8 0b0100 = some (.decFrame []) := by decide
theorem test_decode_verify : decodeTableWord 8 0b0101 = some (.verify []) := by decide
theorem test_decode_idDecode : decodeTableWord 8 0b0110 = some (.idDecode []) := by decide
theorem test_decode_keyDerive : decodeTableWord 8 0b0111 = some (.keyDerive []) := by decide
theorem test_decode_encBlk : decodeTableWord 8 0b1000 = some (.encBlk 0 0) := by decide
theorem test_decode_decBlk : decodeTableWord 8 0b1001 = some (.decBlk 0 0) := by decide
theorem test_decode_encStr : decodeTableWord 8 0b1010 = some (.encStr []) := by decide
theorem test_decode_decStr : decodeTableWord 8 0b1011 = some (.decStr []) := by decide
theorem test_decode_reservedC : decodeTableWord 8 0b1100 = some .reservedC := by decide
theorem test_decode_reservedD : decodeTableWord 8 0b1101 = some .reservedD := by decide
theorem test_decode_reservedE : decodeTableWord 8 0b1110 = some .reservedE := by decide
theorem test_decode_reservedF : decodeTableWord 8 0b1111 = some .reservedF := by decide

/-- Operands come from their own ports: V-CHK-2's `CHKFOLD 10, [05]`. -/
theorem test_decode_ports :
    decode (.select 0x1 { acc := 0x10, cmd := 7, v0 := 1, v1 := 2, ibuf := [0x05] }) =
      .ok (.chkFold 0x10 [0x05]) := by decide

theorem test_decode_getIdentity : decode (.command 0x00) = .ok .getIdentity := by decide

theorem test_decode_no_command : decode (.command 0x80) = .error .noSuchCommand := by decide

/-- "03ABCDEF67" of V-ENC-1. -/
theorem test_decode_request :
    decode (.requestText [0x30, 0x33, 0x41, 0x42, 0x43, 0x44, 0x45, 0x46, 0x36, 0x37]) =
      .ok (.requestFrame [0xAB, 0xCD, 0xEF]) := by decide

/-- The same with a wrong checksum digit is no request frame. -/
theorem test_decode_request_bad :
    decode (.requestText [0x30, 0x33, 0x41, 0x42, 0x43, 0x44, 0x45, 0x46, 0x36, 0x38]) =
      .error .notARequestFrame := by decide

/-- "00 00 CR LF" of V-DEC-2. -/
theorem test_decode_response :
    decode (.responseText [0x30, 0x30, 0x20, 0x30, 0x30, 0x20, 0x0D, 0x0A]) =
      .ok (.responseFrame [0x30, 0x30, 0x20, 0x30, 0x30, 0x20, 0x0D, 0x0A]) := by decide

/-- One byte too many. -/
theorem test_decode_response_bad :
    decode (.responseText [0x30, 0x30, 0x20, 0x30, 0x30, 0x20, 0x0D, 0x0A, 0x0A]) =
      .error (.notAResponseFrame [0x30, 0x30, 0x20, 0x30, 0x30, 0x20, 0x0D, 0x0A, 0x0A]) := by decide

/-! ### Checksum (V-CHK-1, V-CHK-2) -/

theorem test_chkSum :
    handed (exec (.chkSum [0x12, 0x34, 0x56, 0x78, 0x9A]) State.reset) = some (.ok (.byte 0xAE)) := by decide

theorem test_chkFold : handed (exec (.chkFold 0x01 [0xFF, 0xFF]) State.reset) = some (.ok (.byte 0xFF)) := by decide

/-! ### Frame encoder (V-ENC-1, V-ENC-2) -/

theorem test_encFrame :
    handed (exec (.encFrame [0xFF, 0xFF]) State.reset) =
      some (.ok (.buffer [0x30, 0x32, 0x46, 0x46, 0x46, 0x46, 0x46, 0x45])) := by decide

theorem test_encFrame_long :
    handed (exec (.encFrame (List.replicate 256 0)) State.reset) = some (.refused .contentTooLong) := by
  decide +kernel

theorem test_encCmd :
    handed (exec (.encCmd 0x00) State.reset) =
      some (.ok (.buffer [0x30, 0x31, 0x38, 0x30, 0x38, 0x30])) := by decide

theorem test_encCmd_unknown : handed (exec (.encCmd 0x80) State.reset) = some (.refused .unknownCommand) := by decide

theorem test_getIdentity :
    handed (exec .getIdentity State.reset) = some (.ok (.buffer [0x30, 0x31, 0x38, 0x30, 0x38, 0x30])) := by decide

/-- "010000": leading zeros kept. -/
theorem test_requestFrame :
    handed (exec (.requestFrame [0x00]) State.reset) =
      some (.ok (.buffer [0x30, 0x31, 0x30, 0x30, 0x30, 0x30])) := by decide

/-! ### Frame decoder (V-DEC-2) -/

/-- "01 80 80 CR LF XYZ": bytes beyond `T` untouched. -/
theorem test_decFrame_rest :
    handed (exec (.decFrame [0x30, 0x31, 0x20, 0x38, 0x30, 0x20, 0x38, 0x30, 0x20, 0x0D, 0x0A, 0x58, 0x59, 0x5A])
      State.reset) = some (.ok (.payload [0x01, 0x80, 0x80] 11)) := by decide

/-- "01 TAB 80 80 CR LF": a tab is not stripped. -/
theorem test_decFrame_tab :
    handed (exec (.decFrame [0x30, 0x31, 0x09, 0x38, 0x30, 0x20, 0x38, 0x30, 0x20, 0x0D, 0x0A]) State.reset) =
      some (.error (.framing (.nonHexCharacter 2))) := by decide

/-- "01 CR LF CR LF CR LF CR LF": the least payload. -/
theorem test_responseFrame :
    handed (exec (.responseFrame [0x30, 0x31, 0x20, 0x0D, 0x0A, 0x0D, 0x0A, 0x0D, 0x0A, 0x0D, 0x0A]) State.reset) =
      some (.ok (.payload [0x01] 11)) := by decide

/-- "01 ab cd CR LF" under both values of `HEX_LOWER_OK`. -/
theorem test_lower_case :
    opDecFrame { small with maxBuf := none } [0x30, 0x31, 0x20, 0x61, 0x62, 0x20, 0x63, 0x64, 0x20, 0x0D, 0x0A] =
      .ok (.payload [0x01, 0xAB, 0xCD] 11) ∧
    opDecFrame { small with maxBuf := none, hexLowerOk := false }
      [0x30, 0x31, 0x20, 0x61, 0x62, 0x20, 0x63, 0x64, 0x20, 0x0D, 0x0A] =
      .error (.framing (.nonHexCharacter 3)) := by decide

/-! ### Companion (V-ID-1, V-ID-2, S3) -/

theorem test_verify : handed (exec (.verify s3) State.reset) = some (.ok .nothing) := by decide

theorem test_verify_bad :
    handed (exec (.verify [0x01, 0x80, 0x81]) State.reset) = some (.error (.checksum 0x81 0x80)) := by decide

/-- S3, with the product type that C4 resolves to Atlas. -/
theorem test_idDecode :
    handed (exec (.idDecode s3) State.reset) =
      some (.ok (.record
        { commType := 0x05, versionMajor := 1, versionMinor := 0, revision := 3,
          serialRaw := [0x59, 0x31, 0x38, 0x33, 0x36, 0x34, 0x31, 0x20, 0x20], serialLen := 7,
          hardwareRevision := 0x02, productType := .atlas, productTypeCode := 0x07, nvramConfig := 0x01 })) := by
  decide

/-- Offset 13 = FF with the trailer corrected to 17. -/
theorem test_idDecode_text :
    handed (exec (.idDecode ((s3.set 13 0xFF).set 31 0x17)) State.reset) = some (.error .encoding) := by decide

/-! ### Cipher (V-KEY-1, V-CIP-3, V-CIP-4, V-STR-1, V-STR-2) -/

theorem test_keyDerive :
    deriveKey keymapEx s3 =
      { w0 := 0x4E333831, w1 := 0x75313436, w2 := 0x7E002020, w3 := 0x38203100 } := by decide

theorem test_keyDerive_short :
    handed (exec (.keyDerive (s3.take 31)) State.reset) = some (.refused .payloadTooShort) := by decide

theorem test_encBlk :
    handed (exec (.encBlk 0x01234567 0x89ABCDEF) (keyed keyCip)) =
      some (.ok (.words 0xBC299665 0xBD91E141)) := by decide +kernel

theorem test_encBlk_add :
    encBlock .add keyCip 0x01234567 0x89ABCDEF = (0x6AC610F1, 0x095CAE8B) := by decide +kernel

theorem test_decBlk :
    handed (exec (.decBlk 0 0) (keyed keyCip)) = some (.ok (.words 0xD613488C 0x6AA83906)) := by decide +kernel

theorem test_decBlk_no_key : handed (exec (.decBlk 0 0) State.reset) = some (.refused .keyNotValid) := by decide

theorem test_encStr :
    handed (exec (.encStr [0xAA]) (keyed keyCip)) =
      some (.ok (.buffer
        [0x6C, 0x60, 0x3A, 0xD0, 0x2E, 0xF1, 0x92, 0xE3, 0x08, 0x11, 0x38, 0xB4, 0x7A, 0xDC, 0xCF, 0x8A,
          0x08, 0x11, 0x38, 0xB4, 0x7A, 0xDC, 0xCF, 0x8A, 0x08, 0x11, 0x38, 0xB4, 0x7A, 0xDC, 0xCF, 0x8A])) := by
  decide +kernel

theorem test_decStr :
    handed (exec (.decStr [0x01, 0x02, 0x03]) (keyed keyCip)) =
      some (.ok (.buffer
        [0x67, 0x3E, 0x79, 0x98, 0x4C, 0x1E, 0xEF, 0xFC, 0x8C, 0x48, 0x13, 0xD6, 0x06, 0x39, 0xA8, 0x6A,
          0x8C, 0x48, 0x13, 0xD6, 0x06, 0x39, 0xA8, 0x6A, 0x8C, 0x48, 0x13, 0xD6, 0x06, 0x39, 0xA8, 0x6A])) := by
  decide +kernel

/-! ### Reserved codes and the step (P4 step 11) -/

theorem test_reservedC :
    handed (step (State.reset.withFetchWord 8 0xC)) = some (.refused .illegalOp) := by decide

/-- A command number outside the closed set ends with an outcome, as ENCCMD's does (R41(b)). -/
theorem test_step_unknown_command :
    handed (step { State.reset with program := [.invoke (.command 0x80)] }) = some (.refused .unknownCommand) := by
  decide

/-- "01 80 80 CR LF XYZ" as a response text: DECFRAME's own answer (V-DEC-2). -/
theorem test_step_response_rest :
    handed (step { State.reset with program := [.invoke (.responseText
        [0x30, 0x31, 0x20, 0x38, 0x30, 0x20, 0x38, 0x30, 0x20, 0x0D, 0x0A, 0x58, 0x59, 0x5A])] }) =
      some (.ok (.payload [0x01, 0x80, 0x80] 11)) := by decide

theorem test_step_chkFold :
    handed (step (State.reset.withFetchWord 8 0x1)) = some (.ok (.byte 0)) := by decide

/-! ### Witnesses: for each statement with hypotheses, concrete values that meet all of them together -/

/-- A response of the layout of R35 with no content: "00 00 CR LF". -/
def least : List Byte := [0x30, 0x30, 0x20, 0x30, 0x30, 0x20, 0x0D, 0x0A]

/-- An identity payload of the least length, 17 bytes (R96). -/
def ident17 : List Byte :=
  [0x0F, 0x00, 0x05, 0x10, 0x03, 0x41, 0x42, 0x20, 0x20, 0x20, 0x20, 0x20, 0x20, 0x20, 0x02, 0x01, 0x7E]

/-- The same with a serial byte that is not text, its trailer corrected. -/
def ident17Bad : List Byte :=
  [0x0F, 0x00, 0x05, 0x10, 0x03, 0xFF, 0x42, 0x20, 0x20, 0x20, 0x20, 0x20, 0x20, 0x20, 0x02, 0x01, 0x3C]

/-- The state whose host is about to do the given actions. -/
def about (p : List HostAction) : State := { State.reset with program := p }

/-- The state that has derived its key from the payload of S3. -/
def derived : State := { State.reset with key := deriveKey device.keymap s3, keyValid := true }

theorem witness_ResetActionClearsKeyValid :
    ({ keyed keyCip with program := [.reset] } : State).program = .reset :: [] := rfl

theorem witness_StepRunsTheDecodedInvocation :
    (about [.invoke (.select 0x7 { Ports.zero with ibuf := s3 })]).program =
      .invoke (.select 0x7 { Ports.zero with ibuf := s3 }) :: [] ∧
    decode (.select 0x7 { Ports.zero with ibuf := s3 }) = .ok (.keyDerive s3) ∧
    WellFormed (.keyDerive s3) = true := ⟨rfl, rfl, rfl⟩

theorem witness_StepRunsTheDecodedInvocation_idle : (about []).program = [] := rfl

/-- Command 0x01, "01808" (one digit short) and "00 00 CR" (one byte short). -/
theorem witness_StepRunsTheDecodedInvocation_undecoded :
    ((about [.invoke (.command 0x01)]).program = .invoke (.command 0x01) :: [] ∧ (0x01 : Byte) ≠ 0x00) ∧
    ((about [.invoke (.requestText [0x30, 0x31, 0x38, 0x30, 0x38])]).program =
        .invoke (.requestText [0x30, 0x31, 0x38, 0x30, 0x38]) :: [] ∧
      decode (.requestText [0x30, 0x31, 0x38, 0x30, 0x38]) = .error .notARequestFrame) ∧
    ((about [.invoke (.responseText (least.take 7))]).program = .invoke (.responseText (least.take 7)) :: [] ∧
      decode (.responseText (least.take 7)) = .error (.notAResponseFrame (least.take 7))) := by decide

theorem witness_DecodeInvertsEncode_longest : WellFormed (.requestFrame (List.replicate 255 0xFF)) = true := by
  decide +kernel

theorem witness_DecodeInvertsEncode_response : WellFormed (.responseFrame least) = true := by decide

theorem witness_EveryDecodedWireFormIsItsEncoding :
    (decode (.responseText least) = .ok (.responseFrame least) ∧
      ∀ c p, Invocation.responseText least ≠ .select c p) ∧
    decode (.select 0xF Ports.zero) = .ok .reservedF := by
  refine ⟨⟨by decide, ?_⟩, by decide⟩
  intro c p h
  cases h

theorem witness_OnlyKeyDeriveWritesState :
    ∃ t t', exec (.keyDerive s3) State.reset = .next t ∧ exec (.keyDerive s3) (keyed keyCip) = .next t' ∧
      ∃ v, t.response = some (.ok v) := ⟨_, _, rfl, rfl, _, rfl⟩

theorem witness_KeyValidIsClearedOnlyByReset :
    ∃ t, step { keyed keyCip with program := [.invoke (.command 0x00)] } = .next t ∧
      (keyed keyCip).keyValid = true ∧
      ([.invoke (.command 0x00)] : List HostAction).head? ≠ some .reset := ⟨_, rfl, rfl, by decide⟩

theorem witness_RefusalMarkIsNeverCleared :
    ∃ t, step { about [.reset] with refusedMark := true } = .next t ∧
      ({ about [.reset] with refusedMark := true } : State).refusedMark = true := ⟨_, rfl, rfl⟩

theorem witness_OperationsAreIdempotent : ∃ t, exec (.keyDerive s3) State.reset = .next t := ⟨_, rfl⟩

theorem witness_OutcomeDependsOnOperandsAndKeyOnly :
    ∃ t t', (keyed keyCip).keyState =
        ({ keyed keyCip with refusedMark := true, response := some (.ok .nothing) } : State).keyState ∧
      exec (.encBlk 0 0) (keyed keyCip) = .next t ∧
      exec (.encBlk 0 0) { keyed keyCip with refusedMark := true, response := some (.ok .nothing) } = .next t' :=
  ⟨_, _, rfl, rfl, rfl⟩

theorem witness_KeyHasNoReadOutPath :
    ∃ t t', readsKey (.verify s3) = false ∧ exec (.verify s3) State.reset = .next t ∧
      exec (.verify s3) (keyed keyCip) = .next t' := ⟨_, _, rfl, rfl, rfl⟩

theorem witness_ErrorKindsAreRaisedOnlyWhereListed :
    handed (exec (.decFrame []) State.reset) = some (.error (.transport .shortHeader 3 0)) ∧
    handed (exec (.decFrame [0x5A, 0x5A, 0x20]) State.reset) = some (.error (.framing (.badLengthHeader 0))) ∧
    handed (exec (.verify [0x01, 0x80, 0x81]) State.reset) = some (.error (.checksum 0x81 0x80)) ∧
    handed (exec (.idDecode ident17Bad) State.reset) = some (.error .encoding) := by decide

theorem witness_EveryStepKeepsTheInvariant :
    ∃ t, ({ derived with program := [.invoke (.select 0x8 Ports.zero)] } : State).Inv ∧
      step { derived with program := [.invoke (.select 0x8 Ports.zero)] } = .next t := by
  refine ⟨_, ⟨fun _ => ⟨s3, by decide, rfl⟩, fun o h => ?_⟩, rfl⟩
  cases h

theorem witness_RunFollowsTheKeyMachine :
    ∃ t, Host.Core.run core 2 (about [.invoke (.select 0x7 { Ports.zero with ibuf := s3 }), .reset]) = .next t :=
  ⟨_, rfl⟩

theorem witness_ChkSumIsTheSumModulo256 : bufferFits device ([0xFF, 0x01] : List Byte).length = true := rfl

theorem witness_ChkFoldAddsTheBytesToAcc : bufferFits device ([] : List Byte).length = true := rfl

theorem witness_ChecksumLaws :
    (([0x01, 0x02] : List Byte).Perm [0x02, 0x01]) ∧
    (∃ t t', exec (.chkSum [0xFF]) State.reset = .next t ∧ exec (.chkSum [0xFF]) (keyed keyCip) = .next t') ∧
    (1 < ([0xFF, 0x01] : List Byte).length ∧ (0xFF : Byte) ≠ 0) ∧
    (0 < ([0xFF, 0x01] : List Byte).length ∧ 1 < ([0xFF, 0x01] : List Byte).length ∧ (0 : Nat) ≠ 1 ∧
      (0x01 : Byte) + 0xFF = 0) :=
  ⟨List.Perm.swap _ _ _, ⟨_, _, rfl, rfl⟩, by decide, by decide⟩

theorem witness_EncFrameLaysOutTheRequest :
    (List.replicate 255 (0x01 : Byte)).length ≤ 255 ∧
      bufferFits device (List.replicate 255 (0x01 : Byte)).length = true := by
  simp only [List.length_replicate]
  exact ⟨le_refl _, rfl⟩

theorem witness_EncFrameRefusesLongContent :
    255 < (List.replicate 256 (0x01 : Byte)).length ∧ catalogue 0x00 = some [0x80] := by
  simp only [List.length_replicate]
  exact ⟨by omega, rfl⟩

theorem witness_EncodedFrameProperties :
    (List.replicate 255 (0x01 : Byte)).length ≤ 255 ∧
      ({ small with hasIdent := true, maxBuf := some 257 } : Params).hasIdent = true ∧
      bufferFits { small with hasIdent := true, maxBuf := some 257 }
        ((List.replicate 255 (0x01 : Byte)).length + 2) = true := by
  rw [List.length_replicate]
  exact ⟨le_refl _, rfl, by decide⟩

theorem witness_EncCmdFramesTheOneCommand : (0x01 : Byte) ≠ 0x00 ∧ (0xFF : Byte) ≠ 0x00 := by decide

theorem witness_GetIdentityIsItsRequestFrame : (0x80 : Byte) ≠ 0x00 := by decide

theorem witness_RequestFrameIsReadBackFromItsCharacters :
    (List.replicate 255 (0x80 : Byte)).length ≤ 255 ∧
      bufferFits device (List.replicate 255 (0x80 : Byte)).length = true := by
  simp only [List.length_replicate]
  exact ⟨le_refl _, rfl⟩

/-- "00 00 CR LF", the least frame, and one with a byte behind it. -/
theorem witness_DecFrameDecodesTheConsumedBytes :
    declaredLength device.hexLowerOk (least ++ [0x5A]) = some 0 ∧ bufferFits device (3 * 0 + 8) = true ∧
      3 * 0 + 8 ≤ (least ++ [0x5A]).length ∧
      (∀ c ∈ strip ((least ++ [0x5A]).take (3 * 0 + 8)), isHex device.hexLowerOk c = true) ∧
      (strip ((least ++ [0x5A]).take (3 * 0 + 8))).length % 2 = 0 := by decide

/-- "ZZ" is too short, "ZZ " has no length, "00 00 CR" is one byte short. -/
theorem witness_DecFrameTestsInOrder_length :
    ([0x5A, 0x5A] : List Byte).length < 3 ∧
    (3 ≤ ([0x5A, 0x5A, 0x20] : List Byte).length ∧
      declaredLength device.hexLowerOk [0x5A, 0x5A, 0x20] = none) ∧
    (3 ≤ (least.take 7).length ∧ declaredLength device.hexLowerOk (least.take 7) = some 0 ∧
      bufferFits device (3 * 0 + 8) = true ∧ (least.take 7).length < 3 * 0 + 8) := by decide

/-- "00 0G CR LF" has a character that is no digit, "00 0  CR LF" an odd digit. -/
theorem witness_DecFrameTestsInOrder_digits :
    (3 ≤ (least.set 4 0x47).length ∧ declaredLength device.hexLowerOk (least.set 4 0x47) = some 0 ∧
      bufferFits device (3 * 0 + 8) = true ∧ 3 * 0 + 8 ≤ (least.set 4 0x47).length ∧
      (∃ c ∈ strip ((least.set 4 0x47).take (3 * 0 + 8)), isHex device.hexLowerOk c = false)) ∧
    (3 ≤ (least.set 4 0x20).length ∧ declaredLength device.hexLowerOk (least.set 4 0x20) = some 0 ∧
      bufferFits device (3 * 0 + 8) = true ∧ 3 * 0 + 8 ≤ (least.set 4 0x20).length ∧
      (∀ c ∈ strip ((least.set 4 0x20).take (3 * 0 + 8)), isHex device.hexLowerOk c = true) ∧
      (strip ((least.set 4 0x20).take (3 * 0 + 8))).length % 2 = 1) := by decide

/-- The characters at both ends of each range of R32, and their neighbours outside. -/
theorem witness_HexDigitsReadBack :
    (∀ x ∈ ([0x30, 0x39] : List Byte), 0x30 ≤ x.toNat ∧ x.toNat ≤ 0x39) ∧
    (∀ x ∈ ([0x41, 0x46] : List Byte), 0x41 ≤ x.toNat ∧ x.toNat ≤ 0x46) ∧
    (∀ x ∈ ([0x61, 0x66] : List Byte), 0x61 ≤ x.toNat ∧ x.toNat ≤ 0x66) ∧
    (∀ x ∈ ([0x00, 0x2F, 0x3A, 0x40, 0x47, 0x60, 0x67, 0xFF] : List Byte),
      ¬ (0x30 ≤ x.toNat ∧ x.toNat ≤ 0x39) ∧ ¬ (0x41 ≤ x.toNat ∧ x.toNat ≤ 0x46) ∧
        ¬ (0x61 ≤ x.toNat ∧ x.toNat ≤ 0x66)) := by decide

theorem witness_DecFrameSucceedsExactlyWhen : opDecFrame device least = .ok (.payload [0x00, 0x00] 8) := by decide

theorem witness_PayloadBeginsWithTheLengthByte :
    opDecFrame device least = .ok (.payload [0x00, 0x00] 8) ∧
    (List.replicate 255 (0x80 : Byte)).length ≤ 255 ∧
      bufferFits device (3 * (List.replicate 255 (0x80 : Byte)).length + 8) = true :=
  ⟨by decide, by simp only [List.length_replicate]; exact le_refl _, rfl⟩

theorem witness_DecFrameReadsNothingBeyondItsBudget :
    declaredLength device.hexLowerOk least = some 0 ∧ 3 * 0 + 8 ≤ least.length := by decide

theorem witness_DecFrameChecksNoTrailerAndNoCount :
    (List.replicate 255 (0x80 : Byte)).length ≤ 255 ∧
      bufferFits device (3 * (List.replicate 255 (0x80 : Byte)).length + 8) = true ∧ bufferFits device 11 = true :=
  ⟨by simp only [List.length_replicate]; exact le_refl _, rfl, rfl⟩

theorem witness_ResponseFrameIsConsumedWhole :
    WellFormed (.responseFrame least) = true ∧ bufferFits device least.length = true ∧
      (∀ c ∈ strip least, isHex device.hexLowerOk c = true) ∧ (strip least).length % 2 = 0 := by decide

/-- "00 0G CR LF" and "00 0  CR LF". -/
theorem witness_ResponseFrameIsConsumedWhole_errors :
    (WellFormed (.responseFrame (least.set 4 0x47)) = true ∧
      bufferFits device (least.set 4 0x47).length = true ∧
      ∃ c ∈ strip (least.set 4 0x47), isHex device.hexLowerOk c = false) ∧
    (WellFormed (.responseFrame (least.set 4 0x20)) = true ∧
      bufferFits device (least.set 4 0x20).length = true ∧
      (∀ c ∈ strip (least.set 4 0x20), isHex device.hexLowerOk c = true) ∧
      (strip (least.set 4 0x20)).length % 2 = 1) := by decide

theorem witness_ResponseFrameIsConsumedWhole_layout :
    (List.replicate 255 (0x80 : Byte)).length ≤ 255 ∧
      bufferFits device (3 * (List.replicate 255 (0x80 : Byte)).length + 8) = true :=
  ⟨by simp only [List.length_replicate]; exact le_refl _, rfl⟩

theorem witness_AnsweredFrameDecodesAndVerifies :
    ([0x80] : List Byte).length ≤ 255 ∧ device.hasIdent = true ∧
      bufferFits device (3 * ([0x80] : List Byte).length + 8) = true := ⟨by decide, rfl, rfl⟩

theorem witness_VerifyComparesRegionWithTrailer :
    device.hasIdent = true ∧ bufferFits device (([] : List Byte).length + 2) = true ∧
      ((([] : List Byte).map BitVec.toNat).sum % 256 = (0x00 : Byte).toNat) ∧
      ((([] : List Byte).map BitVec.toNat).sum % 256 ≠ (0x01 : Byte).toNat) := by decide

theorem witness_CompanionRefusesShortPayloads :
    device.hasIdent = true ∧ ([0x00] : List Byte).length < 2 ∧ (ident17.take 16).length < 17 := by decide

theorem witness_IdDecodeExtractsTheFields :
    device.hasIdent = true ∧ 17 ≤ ident17.length ∧ bufferFits device ident17.length = true ∧
      checksumOk ident17 = true ∧ device.textValid (slice ident17 5 14) = true := by decide

/-- The blank field, whose least cut is 0. -/
theorem witness_TrimLenIsTheLeastCut :
    ∀ c ∈ (List.replicate 9 (0x20 : Byte)).drop 0, c ∈ device.whitespace := by decide

theorem witness_ProductCodesAreTheTable :
    device.hasIdent = true ∧ 17 ≤ s3.length ∧ bufferFits device s3.length = true ∧
      checksumOk s3 = true ∧ device.textValid (slice s3 5 14) = true := by decide

theorem witness_IdDecodeErrorsInOrder :
    device.hasIdent = true ∧
      (17 ≤ ident17Bad.length ∧ bufferFits device ident17Bad.length = true ∧ checksumOk ident17Bad = true ∧
        device.textValid (slice ident17Bad 5 14) = false) ∧
      (17 ≤ (ident17Bad.set 2 0).length ∧ bufferFits device (ident17Bad.set 2 0).length = true ∧
        checksumOk (ident17Bad.set 2 0) = false) := by decide

theorem witness_SingleByteMutationIsDetected :
    device.hasIdent = true ∧ 17 ≤ s3.length ∧ bufferFits device s3.length = true ∧ checksumOk s3 = true ∧
      (1 ≤ 1 ∧ 1 < s3.length ∧ (0x01 : Byte) ≠ byteAt s3 1) ∧
      (1 ≤ 31 ∧ 31 < s3.length ∧ (0x39 : Byte) ≠ byteAt s3 31) := by decide

theorem witness_KeyDeriveAssemblesTheKey : 32 ≤ s3.length ∧ bufferFits device s3.length = true := by decide

theorem witness_KeyDeriveRefusesShortPayloads : (s3.take 31).length < 32 := by decide

theorem witness_KeyDependsOnNamedOffsetsOnly :
    ∀ o, (6 ≤ o ∧ o ≤ 13) ∨ (21 ≤ o ∧ o ≤ 26) → byteAt s3 o = byteAt (s3.set 5 0xFF) o := by
  intro o h
  have : o < 27 := by omega
  interval_cases o <;> first | omega | decide

theorem witness_KeyHoldsTheThreeConstants :
    KeyMap.constantsInThreeWords keymapEx ∧ 32 ≤ s3.length ∧ bufferFits device s3.length = true :=
  ⟨exampleKeyMap.constants, by decide, rfl⟩

theorem witness_EncBlkRunsSixteenRounds : (keyed keyCip).keyValid = true := rfl

theorem witness_DecBlkRunsTheRoundsBackwards : derived.keyValid = true := rfl

theorem witness_AccumulatorScheduleIsFixed : 16 ≤ 16 := le_refl _

theorem witness_EncStrEncryptsBlockByBlock :
    (keyed keyCip).keyValid = true ∧ bufferFits device (pad [0xAA]).length = true ∧ 8 * 3 < (pad [0xAA]).length := by
  decide

theorem witness_DecStrDecryptsBlockByBlock :
    (keyed keyCip).keyValid = true ∧ bufferFits device (pad s3).length = true ∧ 8 * 3 < (pad s3).length := by
  decide

theorem witness_StreamLaws : s3.length % 32 = 0 ∧ ([] : List Byte).length % 32 = 0 := by decide

theorem witness_CipherNeedsAValidKey : State.reset.keyValid = false := rfl

theorem witness_AbsentCompanionAndFiniteBuffersRefuse_absent : small.hasIdent = false := rfl

/-- A device with the companion and a given capacity. -/
def bounded (m : Nat) : Params := { small with maxBuf := some m, hasIdent := true }

/-- The least lengths 2 (VERIFY), 17 (IDDECODE) and 32 (KEYDERIVE), each one above the capacity. -/
theorem witness_AbsentCompanionAndFiniteBuffersRefuse_least :
    ((bounded 1).maxBuf = some 1 ∧ (bounded 1).hasIdent = true ∧ 1 < (s3.take 2).length ∧
      2 ≤ (s3.take 2).length) ∧
    ((bounded 16).maxBuf = some 16 ∧ (bounded 16).hasIdent = true ∧ 16 < ident17.length ∧ 17 ≤ ident17.length) ∧
    ((bounded 31).maxBuf = some 31 ∧ 31 < s3.length ∧ 32 ≤ s3.length) := by decide

/-- The greatest content of ENCFRAME, 255 bytes. -/
theorem witness_AbsentCompanionAndFiniteBuffersRefuse_greatest :
    (bounded 254).maxBuf = some 254 ∧ 254 < (List.replicate 255 (0x01 : Byte)).length ∧
      (List.replicate 255 (0x01 : Byte)).length ≤ 255 := by
  rw [List.length_replicate]
  exact ⟨rfl, by decide, le_refl _⟩

theorem witness_AbsentCompanionAndFiniteBuffersRefuse_streams :
    ({ small with maxBuf := some 31 } : Params).maxBuf = some 31 ∧ 31 < (pad [0xAA]).length ∧
      (keyed keyCip).keyValid = true := by decide

theorem witness_AbsentCompanionAndFiniteBuffersRefuse_frame :
    ({ small with maxBuf := some 7 } : Params).maxBuf = some 7 ∧ 3 ≤ least.length ∧
      declaredLength ({ small with maxBuf := some 7 } : Params).hexLowerOk least = some 0 ∧ 7 < 3 * 0 + 8 := by decide

end Sys2Proof.Tests
end

section
/-! The state's operations seen from the architectural state, and KEYDERIVE as the one writer of it
(10_state.md R10, R14). -/

namespace Sys2Proof.Machine

/-! ### What each operation on the state does to the key and its valid bit -/

@[simp] theorem finishOk_keyState (s : State) (v : Value) : (s.finishOk v).keyState = s.keyState := rfl
@[simp] theorem raiseError_keyState (s : State) (e : ErrorKind) : (s.raiseError e).keyState = s.keyState := rfl
@[simp] theorem refuse_keyState (s : State) (r : RefusalReason) : (s.refuse r).keyState = s.keyState := rfl
@[simp] theorem writeKey_keyState (s : State) (k : Key) : (s.writeKey k).keyState = ⟨k, true⟩ := rfl

/-- An operation that ends with an outcome alone writes no architectural state, whatever the outcome (R14). -/
@[simp] theorem conclude_keyState (s : State) (o : OpOutcome) : (s.conclude o).keyState = s.keyState := by
  cases o with
  | ok v => exact finishOk_keyState s v
  | error e => exact raiseError_keyState s e
  | refused r => exact refuse_keyState s r

/-! ### KEYDERIVE as an instruction -/

/-- The two ends of KEYDERIVE: refused with the architectural state as it was, or `OK` with a state that the
payload alone fixes. -/
theorem exec_keyDerive_cases {p : List Byte} {s t : State} (h : exec (.keyDerive p) s = .next t) :
    (∃ r, keyDeriveRefusal device p = some r ∧ t.response = some (.refused r) ∧ t.keyState = s.keyState) ∨
    (keyDeriveRefusal device p = none ∧ t.response = some (.ok .nothing) ∧
      t.keyState = ⟨deriveKey device.keymap p, true⟩) := by
  obtain rfl : runKeyDerive device p s = t := Host.Outcome.next.inj h
  rcases runKeyDerive_cases device p s with ⟨r, hr, hrun⟩ | ⟨hr, hrun⟩
  · exact .inl ⟨r, hr, by simp [hrun], by simp [hrun]⟩
  · exact .inr ⟨hr, by simp [hrun], by simp [hrun]⟩

/-- KEYDERIVE that ends with `OK` was not refused, which is a fact about its payload alone. -/
theorem keyDerive_not_refused_of_ok {p : List Byte} {s t : State} {v : Value}
    (h : exec (.keyDerive p) s = .next t) (hok : t.response = some (.ok v)) : keyDeriveRefusal device p = none := by
  rcases exec_keyDerive_cases h with ⟨r, _, hresp, _⟩ | ⟨hr, _, _⟩
  · simp [hresp] at hok
  · exact hr

/-- KEYDERIVE that is not refused leaves the derived key and a set valid bit, from every state. -/
theorem keyDerive_keyState {p : List Byte} {s t : State} (h : exec (.keyDerive p) s = .next t)
    (hr : keyDeriveRefusal device p = none) : t.keyState = ⟨deriveKey device.keymap p, true⟩ := by
  rcases exec_keyDerive_cases h with ⟨r, hr', _, _⟩ | ⟨_, _, hkey⟩
  · simp [hr] at hr'
  · exact hkey

/-- Every instruction leaves the architectural state, or is a KEYDERIVE that ends with `OK` (R14). -/
theorem exec_keyState {i : Instr} {s t : State} (h : exec i s = .next t) :
    t.keyState = s.keyState ∨ ((∃ p, i = .keyDerive p) ∧ ∃ v, t.response = some (.ok v)) := by
  rcases exec_cases i s with ⟨o, ho⟩ | ⟨p, rfl, _⟩
  · obtain rfl : s.conclude o = t := Host.Outcome.next.inj (ho.symm.trans h)
    exact .inl (conclude_keyState s o)
  · rcases exec_keyDerive_cases h with ⟨_, _, _, hkept⟩ | ⟨_, hresp, _⟩
    · exact .inl hkept
    · exact .inr ⟨⟨p, rfl⟩, .nothing, hresp⟩

/-- Settles O9: an outcome alone writes no state, and whether KEYDERIVE is refused, and the key it writes if not,
are fixed by its payload. -/
theorem onlyKeyDeriveWritesState : Obligations.OnlyKeyDeriveWritesState := by
  refine ⟨fun _ _ _ h => exec_keyState h, ?_⟩
  rintro p s s' t t' h h' ⟨v, hok⟩
  have hr := keyDerive_not_refused_of_ok h hok
  exact (keyDerive_keyState h hr).trans (keyDerive_keyState h' hr).symm

end Sys2Proof.Machine
end

section
/-! The checksum adder seen as the sum of the bytes in the commutative group of 8-bit words, and CHKSUM as an
instruction (40_checksum.md R45 to R48). Every law of R47 is a law of that sum. -/

namespace Sys2Proof.Machine

/-! ### The fold and the sum -/

/-- The fold of R45 adds the sum of the bytes to its starting value. -/
theorem chkFold_eq_add_sum (acc : Byte) (b : List Byte) : chkFold acc b = acc + b.sum := by
  induction b generalizing acc with
  | nil => simp
  | cons x b ih => rw [chkFold_cons, ih, List.sum_cons, add_assoc]

theorem chkSum_eq_sum (b : List Byte) : chkSum b = b.sum := by
  rw [chkSum, chkFold_eq_add_sum, zero_add]

/-- Wrapping addition of bytes is addition of their values, truncated to 8 bits once at the end. -/
theorem ofNat_sum_toNat (b : List Byte) : BitVec.ofNat 8 (b.map BitVec.toNat).sum = b.sum := by
  induction b with
  | nil => rfl
  | cons x b ih =>
    rw [List.map_cons, List.sum_cons, List.sum_cons, BitVec.ofNat_add, BitVec.ofNat_toNat, BitVec.setWidth_eq, ih]

/-! ### The laws of R47 on the function -/

theorem chkFold_append (acc : Byte) (a b : List Byte) : chkFold acc (a ++ b) = chkFold (chkFold acc a) b :=
  List.foldl_append

theorem chkSum_append (a b : List Byte) : chkSum (a ++ b) = chkSum a + chkSum b := by
  simp only [chkSum_eq_sum, List.sum_append]

theorem chkSum_perm {a b : List Byte} (h : a.Perm b) : chkSum a = chkSum b := by
  rw [chkSum_eq_sum, chkSum_eq_sum, h.sum_eq]

/-- Adding `d` to one byte of a sequence adds `d` to its checksum. -/
theorem chkSum_set_add {b : List Byte} {i : Nat} (hi : i < b.length) (d : Byte) :
    chkSum (b.set i (byteAt b i + d)) = chkSum b + d := by
  rw [chkSum_eq_sum, chkSum_eq_sum, List.sum_set', dif_pos hi, byteAt, List.getD_eq_getElem b 0 hi,
    neg_add_cancel_left]

/-- A byte keeps its value when another byte is overwritten. -/
theorem byteAt_set_ne {b : List Byte} {i j : Nat} (h : i ≠ j) (x : Byte) : byteAt (b.set i x) j = byteAt b j := by
  simp only [byteAt, List.getD_eq_getElem?_getD, List.getElem?_set_ne h]

/-! ### CHKSUM as an instruction -/

/-- CHKSUM ends with an outcome that its operand alone fixes, and writes no state (R46). -/
theorem exec_chkSum (b : List Byte) (s : State) : exec (.chkSum b) s = conclude s (opChkSum device b) := rfl

/-- The end of an operation with `OK`, in the vocabulary of the claims: its result is handed over, and every other
field is as before. -/
theorem conclude_ok (s : State) (v : Value) : conclude s (.ok v) = .next (s.answers v) := rfl

theorem opChkSum_of_fits {P : Params} {b : List Byte} (h : bufferFits P b.length = true) :
    opChkSum P b = .ok (.byte (chkSum b)) := by
  rw [opChkSum, opChkFold, if_pos h, chkSum]

/-- The outcome of CHKSUM does not depend on the state it runs from (R47(d)). -/
theorem exec_chkSum_response {b : List Byte} {s t : State} (h : exec (.chkSum b) s = .next t) :
    t.response = some (opChkSum device b) := by
  rw [conclude_next h, conclude_response]

/-- Settles O21: CHKSUM hands over the fold from zero, which is the sum of the bytes. -/
theorem chkSumIsTheSumModulo256 : Obligations.ChkSumIsTheSumModulo256 := by
  refine ⟨fun _ => rfl, fun b s h => ?_⟩
  rw [exec_chkSum, opChkSum_of_fits h, conclude_ok, chkSum_eq_sum, ofNat_sum_toNat]

/-- Settles O23: each clause is the law of the sum or of the instruction above; for two bytes, the second change
is made to the sequence that the first one left, where the second byte is still as it was. -/
theorem checksumLaws : Obligations.ChecksumLaws := by
  refine ⟨chkFold_append 0, chkSum_append, fun _ _ => chkSum_perm, ?sameOutcome, ?oneByte, ?twoBytes⟩
  case sameOutcome =>
    intro b s s' t t' h h'
    rw [exec_chkSum_response h, exec_chkSum_response h']
  case oneByte =>
    intro b i d hi hd
    have hsum := chkSum_set_add hi d
    exact ⟨hsum, fun heq => hd (add_eq_left.mp (hsum.symm.trans heq))⟩
  case twoBytes =>
    intro b i j d d' hi hj hij hdd
    have hj' : j < (b.set i (byteAt b i + d)).length := by rwa [List.length_set]
    calc chkSum ((b.set i (byteAt b i + d)).set j (byteAt b j + d'))
        = chkSum (b.set i (byteAt b i + d)) + d' := by rw [← chkSum_set_add hj' d', byteAt_set_ne hij]
      _ = chkSum b + (d + d') := by rw [chkSum_set_add hi d, add_assoc]
      _ = chkSum b := by rw [hdd, add_zero]

end Sys2Proof.Machine
end

section
/-! The frame encoder: a request frame is the hex digits of its bytes, length first and checksum last
(41_frame_encode.md R50, R53), and ENCFRAME on content that no length byte can count (R52). -/

namespace Sys2Proof.Machine

/-! ### Hex encoding, digit by digit and byte by byte -/

/-- Every digit that the encoder writes is `0`..`9` or `A`..`F` (R31). -/
theorem digitChar_mem_alphabet (n : BitVec 4) :
    (0x30 ≤ digitChar n ∧ digitChar n ≤ 0x39) ∨ (0x41 ≤ digitChar n ∧ digitChar n ≤ 0x46) := by
  revert n
  decide

theorem hexEnc_mem_alphabet {b x : Byte} (h : x ∈ hexEnc b) :
    (0x30 ≤ x ∧ x ≤ 0x39) ∨ (0x41 ≤ x ∧ x ≤ 0x46) := by
  obtain rfl | rfl : x = digitChar (highNibble b) ∨ x = digitChar (lowNibble b) := by simpa [hexEnc] using h
  · exact digitChar_mem_alphabet _
  · exact digitChar_mem_alphabet _

@[simp] theorem digitValue_digitChar (lowerOk : Bool) (n : BitVec 4) :
    digitValue lowerOk (digitChar n) = n.setWidth 8 := by
  rw [digitValue, hexVal_digitChar, Option.getD_some]

/-- A byte is the value of its two nibbles, the high one first. -/
theorem hexByte_nibbles (b : Byte) : hexByte ((highNibble b).setWidth 8) ((lowNibble b).setWidth 8) = b := by
  have hb := b.isLt
  have h16 : (16 : Byte).toNat = 16 := rfl
  apply BitVec.eq_of_toNat_eq
  simp only [hexByte, highNibble, lowNibble, BitVec.toNat_add, BitVec.toNat_mul, BitVec.toNat_setWidth,
    BitVec.extractLsb'_toNat, h16, Nat.shiftRight_eq_div_pow]
  omega

/-- The pairing of R59 undoes the hex encoding, under either value of `HEX_LOWER_OK`. -/
theorem hexPairs_flatMap_hexEnc (lowerOk : Bool) (b : List Byte) : hexPairs lowerOk (b.flatMap hexEnc) = b := by
  induction b with
  | nil => rfl
  | cons x b ih =>
    simp only [List.flatMap_cons, hexEnc, List.cons_append, List.nil_append, hexPairs, digitValue_digitChar,
      hexByte_nibbles, ih]

/-- A header that the encoder wrote declares the byte it was written for. -/
theorem declaredLength_hexEnc_append (lowerOk : Bool) (b : Byte) (rest : List Byte) :
    declaredLength lowerOk (hexEnc b ++ rest) = some b.toNat := by
  simp only [hexEnc, List.cons_append, List.nil_append, declaredLength, hexVal_digitChar, hexByte_nibbles]

/-! ### The request frame -/

/-- The request frame is the hex encoding of the byte sequence `[n] ++ C ++ [CHKSUM(C)]` (R53(c)). -/
theorem requestChars_eq_flatMap (c : List Byte) :
    requestChars c = (BitVec.ofNat 8 c.length :: c ++ [chkSum c]).flatMap hexEnc := by
  simp only [requestChars, List.flatMap_append, List.flatMap_cons, List.flatMap_nil, List.append_nil]

theorem requestChars_length (c : List Byte) : (requestChars c).length = 2 * c.length + 4 := by
  simp only [requestChars_eq_flatMap, List.length_flatMap, hexEnc_length, List.map_const', List.sum_replicate,
    List.length_append, List.length_cons, List.length_nil, smul_eq_mul]
  omega

theorem requestChars_mem_alphabet {c : List Byte} {x : Byte} (h : x ∈ requestChars c) :
    (0x30 ≤ x ∧ x ≤ 0x39) ∨ (0x41 ≤ x ∧ x ≤ 0x46) := by
  rw [requestChars_eq_flatMap] at h
  obtain ⟨b, _, hb⟩ := List.mem_flatMap.mp h
  exact hexEnc_mem_alphabet hb

theorem hexPairs_requestChars (lowerOk : Bool) (c : List Byte) :
    hexPairs lowerOk (requestChars c) = BitVec.ofNat 8 c.length :: c ++ [chkSum c] := by
  rw [requestChars_eq_flatMap, hexPairs_flatMap_hexEnc]

/-- The header of a request frame, read as a response's header, declares the content's length. -/
theorem declaredLength_requestChars (lowerOk : Bool) {c : List Byte} (hc : c.length ≤ 255) :
    declaredLength lowerOk (requestChars c) = some c.length := by
  rw [requestChars, List.append_assoc, declaredLength_hexEnc_append, BitVec.toNat_ofNat,
    Nat.mod_eq_of_lt (by omega)]

/-! ### The companion on a payload given by its parts -/

theorem checkedRegion_cons_concat (x t : Byte) (c : List Byte) : checkedRegion (x :: c ++ [t]) = c := by
  simp [checkedRegion, slice]

theorem trailer_cons_concat (x t : Byte) (c : List Byte) : trailer (x :: c ++ [t]) = t := by
  simp [trailer, byteAt]

/-- VERIFY accepts any payload whose last byte is the checksum of what stands between the first byte and it
(R90). -/
theorem opVerify_cons_concat_chkSum {P : Params} (x : Byte) (c : List Byte) (hP : P.hasIdent = true)
    (hfit : bufferFits P (c.length + 2) = true) : opVerify P (x :: c ++ [chkSum c]) = .ok .nothing := by
  have hlen : (x :: c ++ [chkSum c]).length = c.length + 2 := by simp
  have hrun : companionRefusal P minVerifyPayload (x :: c ++ [chkSum c]) = none :=
    (companionRefusal_none _ _ _).mpr ⟨hP, by simp [minVerifyPayload], by rwa [hlen]⟩
  have hchk : checksumOk (x :: c ++ [chkSum c]) = true := by
    rw [checksumOk, checkedRegion_cons_concat, trailer_cons_concat, beq_self_eq_true]
  simp only [opVerify, hrun, hchk, if_true]

/-! ### The decoder on a request frame -/

/-- The body is decoded only if all the bytes that the header declares are there (R57). -/
theorem total_le_length_of_decodeBody_ok {P : Params} {raw : List Byte} {len : Nat} {v : Value}
    (h : decodeBody P raw len = .ok v) : total len ≤ raw.length := by
  unfold decodeBody at h
  split at h
  · cases h
  · split at h
    · cases h
    · next hlen => exact Nat.le_of_not_lt hlen

/-- A request frame declares `n` and so asks for `3n + 8` bytes of a response, more than its own `2n + 4`
(R53(e)). -/
theorem opDecFrame_requestChars_ne_ok (P : Params) {c : List Byte} (hc : c.length ≤ 255) (v : Value) :
    opDecFrame P (requestChars c) ≠ .ok v := by
  intro h
  have hlen := requestChars_length c
  rw [opDecFrame_body P _ _ (by omega) (declaredLength_requestChars _ hc)] at h
  have hbody := total_le_length_of_decodeBody_ok h
  rw [total_eq] at hbody
  omega

/-- Settles O26: the frame is the hex encoding of `[n] ++ C ++ [CHKSUM(C)]`, which gives its length, its alphabet
and its bytes; the checksum stands where VERIFY looks for it, and the decoder finds the frame too short. -/
theorem encodedFrameProperties : Obligations.EncodedFrameProperties := fun c hc =>
  ⟨requestChars_length c, fun _ => requestChars_mem_alphabet, fun lowerOk => hexPairs_requestChars lowerOk c,
    fun _ => opVerify_cons_concat_chkSum _ c, fun P => opDecFrame_requestChars_ne_ok P hc⟩

/-! ### ENCFRAME as an instruction -/

/-- ENCFRAME ends with an outcome that its operand alone fixes, and writes no state (R50). -/
theorem exec_encFrame (c : List Byte) (s : State) : exec (.encFrame c) s = conclude s (opEncFrame device c) := rfl

/-- The end of an operation with `REFUSED`, in the vocabulary of the claims: the reason is handed over, the mark is
set, and every other field is as before. -/
theorem conclude_refused (s : State) (r : RefusalReason) : conclude s (.refused r) = .next (s.declines r) := rfl

/-- Content beyond `MAX_CONTENT` is refused for that reason, whatever `MAX_BUF` is (R52). -/
theorem opEncFrame_of_long (P : Params) {c : List Byte} (h : maxContent < c.length) :
    opEncFrame P c = .refused .contentTooLong := if_pos h

/-- The closed set of commands holds GET_IDENTITY alone (R39). -/
theorem catalogue_eq_some_iff {cmd : Byte} {c : List Byte} :
    catalogue cmd = some c ↔ cmd = 0x00 ∧ identityContent = c := by
  rw [catalogue, Option.ite_none_right_eq_some, Option.some.injEq]

/-- Settles O25: the length test comes before the frame is built, and the catalogue's one content is one byte. -/
theorem encFrameRefusesLongContent : Obligations.EncFrameRefusesLongContent := by
  refine ⟨fun c s h => ?long, fun cmd c h => ?catalogued⟩
  case long => rw [exec_encFrame, opEncFrame_of_long device h, conclude_refused]
  case catalogued =>
    obtain ⟨_, rfl⟩ := catalogue_eq_some_iff.mp h
    rfl

end Sys2Proof.Machine
end

section
/-! The frame decoder: one equation for each test of DECFRAME (42_frame_decode.md R64), the inputs it accepts with
what it hands over (R66), and what the payload begins with (R62). -/

namespace Sys2Proof.Machine

/-! ### Phases 3 and 4: the consumed bytes -/

/-- A consumed character that is neither stripped nor a digit decides the outcome, whatever the count (R64). -/
theorem decodeConsumed_of_nonHex {lowerOk : Bool} {used : List Byte}
    (h : ∃ x ∈ strip used, isHex lowerOk x = false) :
    ∃ offset, decodeConsumed lowerOk used = .error (.framing (.nonHexCharacter offset)) := by
  cases hfirst : firstNonHex lowerOk used with
  | some offset => exact ⟨offset, by simp only [decodeConsumed, hfirst]⟩
  | none =>
    obtain ⟨x, hx, hnot⟩ := h
    have hhex := (firstNonHex_eq_none lowerOk used).mp hfirst x hx
    rw [hnot] at hhex
    cases hhex

theorem decodeConsumed_of_odd {lowerOk : Bool} {used : List Byte} (h : ∀ x ∈ strip used, isHex lowerOk x = true)
    (hodd : (strip used).length % 2 = 1) : decodeConsumed lowerOk used = .error (.framing .oddDigitCount) := by
  simp only [decodeConsumed, (firstNonHex_eq_none lowerOk used).mpr h, hodd, if_true]

theorem decodeConsumed_of_even {lowerOk : Bool} {used : List Byte} (h : ∀ x ∈ strip used, isHex lowerOk x = true)
    (heven : (strip used).length % 2 = 0) :
    decodeConsumed lowerOk used = .ok (.payload (hexPairs lowerOk (strip used)) used.length) := by
  simp only [decodeConsumed, (firstNonHex_eq_none lowerOk used).mpr h, heven, zero_ne_one, if_false]

/-- Phases 3 and 4 succeed on an even number of digits and nothing else beside the stripped characters, and then
hand over the bytes those digits pair to (R59). -/
theorem decodeConsumed_eq_ok_iff {lowerOk : Bool} {used : List Byte} {v : Value} :
    decodeConsumed lowerOk used = .ok v ↔ (∀ x ∈ strip used, isHex lowerOk x = true) ∧
      (strip used).length % 2 = 0 ∧ v = .payload (hexPairs lowerOk (strip used)) used.length := by
  constructor
  · intro h
    by_cases hhex : ∀ x ∈ strip used, isHex lowerOk x = true
    · rcases Nat.mod_two_eq_zero_or_one (strip used).length with heven | hodd
      · rw [decodeConsumed_of_even hhex heven] at h
        exact ⟨hhex, heven, (OpOutcome.ok.inj h).symm⟩
      · rw [decodeConsumed_of_odd hhex hodd] at h
        cases h
    · obtain ⟨offset, herr⟩ := decodeConsumed_of_nonHex (by simpa using hhex)
      rw [herr] at h
      cases h
  · rintro ⟨hhex, heven, rfl⟩
    exact decodeConsumed_of_even hhex heven

/-! ### Phase 2: the budget -/

theorem decodeBody_of_unfit {P : Params} {len : Nat} (raw : List Byte)
    (hfit : bufferFits P (3 * len + 8) = false) : decodeBody P raw len = .refused .bufferTooLong := by
  simp [decodeBody, total_eq, hfit]

theorem decodeBody_of_short {P : Params} {raw : List Byte} {len : Nat}
    (hfit : bufferFits P (3 * len + 8) = true) (hlen : raw.length < 3 * len + 8) :
    decodeBody P raw len = .error (.transport .shortBody (3 * len + 8) raw.length) := by
  simp [decodeBody, total_eq, hfit, hlen]

theorem decodeBody_of_full {P : Params} {raw : List Byte} {len : Nat}
    (hfit : bufferFits P (3 * len + 8) = true) (hlen : 3 * len + 8 ≤ raw.length) :
    decodeBody P raw len = decodeConsumed P.hexLowerOk (raw.take (3 * len + 8)) := by
  simp [decodeBody, total_eq, hfit, Nat.not_lt.mpr hlen]

/-! ### The whole decoder -/

/-- DECFRAME on a header that declares a length, with all the bytes it declares: phases 3 and 4 decide. -/
theorem opDecFrame_of_full {P : Params} {raw : List Byte} {len : Nat}
    (hd : declaredLength P.hexLowerOk raw = some len) (hfit : bufferFits P (3 * len + 8) = true)
    (hlen : 3 * len + 8 ≤ raw.length) :
    opDecFrame P raw = decodeConsumed P.hexLowerOk (raw.take (3 * len + 8)) := by
  rw [opDecFrame_body P raw len (by omega) hd, decodeBody_of_full hfit hlen]

/-- DECFRAME that succeeds has passed the tests of the header and the budget (R64). -/
theorem full_of_opDecFrame_eq_ok {P : Params} {raw : List Byte} {v : Value} (h : opDecFrame P raw = .ok v) :
    ∃ len, declaredLength P.hexLowerOk raw = some len ∧ bufferFits P (3 * len + 8) = true ∧
      3 * len + 8 ≤ raw.length := by
  rcases Nat.lt_or_ge raw.length 3 with hshort | h3
  · rw [opDecFrame_short P raw hshort] at h
    cases h
  cases hd : declaredLength P.hexLowerOk raw with
  | none =>
    obtain ⟨offset, herr⟩ := opDecFrame_bad_header P raw h3 hd
    rw [herr] at h
    cases h
  | some len =>
    rw [opDecFrame_body P raw len h3 hd] at h
    have hlen := total_le_length_of_decodeBody_ok h
    rw [total_eq] at hlen
    cases hfit : bufferFits P (3 * len + 8) with
    | true => exact ⟨len, rfl, hfit, hlen⟩
    | false =>
      rw [decodeBody_of_unfit raw hfit] at h
      cases h

/-- Which inputs DECFRAME accepts (R66), and what it hands over for each: the bytes that the consumed digits pair
to, and `3L + 8`. -/
theorem opDecFrame_eq_ok_iff {P : Params} {raw : List Byte} {v : Value} :
    opDecFrame P raw = .ok v ↔ ∃ len, declaredLength P.hexLowerOk raw = some len ∧
      bufferFits P (3 * len + 8) = true ∧ 3 * len + 8 ≤ raw.length ∧
      (∀ x ∈ strip (raw.take (3 * len + 8)), isHex P.hexLowerOk x = true) ∧
      (strip (raw.take (3 * len + 8))).length % 2 = 0 ∧
      v = .payload (hexPairs P.hexLowerOk (strip (raw.take (3 * len + 8)))) (3 * len + 8) := by
  constructor
  · intro h
    obtain ⟨len, hd, hfit, hlen⟩ := full_of_opDecFrame_eq_ok h
    rw [opDecFrame_of_full hd hfit hlen, decodeConsumed_eq_ok_iff, List.length_take_of_le hlen] at h
    exact ⟨len, hd, hfit, hlen, h⟩
  · rintro ⟨len, hd, hfit, hlen, h⟩
    rwa [opDecFrame_of_full hd hfit hlen, decodeConsumed_eq_ok_iff, List.length_take_of_le hlen]

/-! ### DECFRAME as an instruction -/

/-- DECFRAME ends with an outcome that its operand alone fixes, and writes no state (R61). -/
theorem exec_decFrame (raw : List Byte) (s : State) :
    exec (.decFrame raw) s = conclude s (opDecFrame device raw) := rfl

/-- The end of an operation with an error, in the vocabulary of the claims: the error is handed over, and every
other field is as before. -/
theorem conclude_error (s : State) (e : ErrorKind) : conclude s (.error e) = .next (s.reports e) := rfl

/-- Settles O32: one equation for each test that fails, each under the hypothesis that the tests before it pass. -/
theorem decFrameTestsInOrder : Obligations.DecFrameTestsInOrder := by
  intro raw s
  simp only [exec_decFrame]
  refine ⟨fun hshort => ?shortHeader, fun h3 hd => ?badHeader, fun len h3 hd hfit =>
    ⟨fun hshort => ?shortBody, fun hlen hnot => ?nonHex, fun hlen hhex hodd => ?odd⟩⟩
  case shortHeader => exact ⟨3, raw.length, by rw [opDecFrame_short device raw hshort, conclude_error]⟩
  case badHeader =>
    obtain ⟨offset, herr⟩ := opDecFrame_bad_header device raw h3 hd
    exact ⟨offset, by rw [herr, conclude_error]⟩
  case shortBody =>
    exact ⟨3 * len + 8, raw.length,
      by rw [opDecFrame_body device raw len h3 hd, decodeBody_of_short hfit hshort, conclude_error]⟩
  case nonHex =>
    obtain ⟨offset, herr⟩ := decodeConsumed_of_nonHex hnot
    exact ⟨offset, by rw [opDecFrame_of_full hd hfit hlen, herr, conclude_error]⟩
  case odd => rw [opDecFrame_of_full hd hfit hlen, decodeConsumed_of_odd hhex hodd, conclude_error]

/-! ### The payload's first byte -/

/-- A header that declares a length is two digits, of which the length is the value (R56). -/
theorem declaredLength_eq_some {lowerOk : Bool} {raw : List Byte} {len : Nat}
    (h : declaredLength lowerOk raw = some len) :
    ∃ x y rest, raw = x :: y :: rest ∧ isHex lowerOk x = true ∧ isHex lowerOk y = true ∧
      len = (hexByte (digitValue lowerOk x) (digitValue lowerOk y)).toNat := by
  match raw with
  | [] | [_] => cases h
  | x :: y :: rest =>
    refine ⟨x, y, rest, rfl, ?_⟩
    cases hx : hexVal lowerOk x with
    | none => simp [declaredLength, hx] at h
    | some hi =>
      cases hy : hexVal lowerOk y with
      | none => simp [declaredLength, hx, hy] at h
      | some lo =>
        have hlen : (hexByte hi lo).toNat = len := by simpa [declaredLength, hx, hy] using h
        simp [isHex, digitValue, hx, hy, hlen]

/-- None of the three characters that stripping removes is a digit (R32, R33). -/
theorem isHex_of_isStripped (lowerOk : Bool) {x : Byte} (h : isStripped x = true) : isHex lowerOk x = false := by
  obtain (rfl | rfl) | rfl : (x = charSP ∨ x = charCR) ∨ x = charLF := by simpa [isStripped] using h
  all_goals cases lowerOk <;> rfl

theorem isStripped_of_isHex {lowerOk : Bool} {x : Byte} (h : isHex lowerOk x = true) : isStripped x = false :=
  Bool.eq_false_of_not_eq_true fun hs => Bool.false_ne_true ((isHex_of_isStripped lowerOk hs).symm.trans h)

/-- Stripping keeps digits. -/
theorem strip_cons_of_isHex {lowerOk : Bool} {x : Byte} (h : isHex lowerOk x = true) (b : List Byte) :
    strip (x :: b) = x :: strip b := by
  simp [strip, isStripped_of_isHex h]

theorem strip_of_forall_isHex {lowerOk : Bool} {b : List Byte} (h : ∀ x ∈ b, isHex lowerOk x = true) :
    strip b = b :=
  List.filter_eq_self.mpr fun x hx => by rw [isStripped_of_isHex (h x hx), Bool.not_false]

/-- The header's two digits are never stripped, so they make the first byte of what the consumed bytes pair to
(R62). -/
theorem hexPairs_strip_take_eq_cons {lowerOk : Bool} {raw : List Byte} {len : Nat}
    (h : declaredLength lowerOk raw = some len) (n : Nat) :
    ∃ x rest, hexPairs lowerOk (strip (raw.take (n + 2))) = x :: rest ∧ x.toNat = len := by
  obtain ⟨x, y, rest, rfl, hx, hy, rfl⟩ := declaredLength_eq_some h
  refine ⟨_, hexPairs lowerOk (strip (rest.take n)), ?_, rfl⟩
  rw [List.take_succ_cons, List.take_succ_cons, strip_cons_of_isHex hx, strip_cons_of_isHex hy, hexPairs]

/-! ### The layout of a response frame -/

theorem isHex_of_mem_hexEnc {lowerOk : Bool} {b x : Byte} (h : x ∈ hexEnc b) : isHex lowerOk x = true := by
  obtain rfl | rfl : x = digitChar (highNibble b) ∨ x = digitChar (lowNibble b) := by simpa [hexEnc] using h
  all_goals rw [isHex, hexVal_digitChar, Option.isSome_some]

/-- Stripping takes the separator and leaves the two digits of a byte. -/
theorem strip_hexEnc_append_space (b : Byte) : strip (hexEnc b ++ [charSP]) = hexEnc b := by
  rw [strip_append, strip_of_forall_isHex fun _ => isHex_of_mem_hexEnc (lowerOk := false)]
  exact List.append_nil _

/-- Stripping the layout of R35 leaves the digits of its bytes. -/
theorem strip_responseChars (c : List Byte) (t : Byte) :
    strip (responseChars c t) = (BitVec.ofNat 8 c.length :: c ++ [t]).flatMap hexEnc := by
  have hbytes (b : List Byte) : strip (b.flatMap fun x => hexEnc x ++ [charSP]) = b.flatMap hexEnc :=
    List.filter_flatMap.trans (congrArg b.flatMap (funext strip_hexEnc_append_space))
  rw [responseChars, strip_append, hbytes]
  exact List.append_nil _

/-- The layout of R35 is `3n + 8` characters long (R36). -/
theorem responseChars_length (c : List Byte) (t : Byte) : (responseChars c t).length = 3 * c.length + 8 := by
  simp only [responseChars, List.length_append, List.length_flatMap, hexEnc_length, List.length_cons,
    List.length_nil, List.map_const', List.sum_replicate, smul_eq_mul]
  omega

/-- The header of a response frame declares the content's length. -/
theorem declaredLength_responseChars (lowerOk : Bool) {c : List Byte} (hc : c.length ≤ 255) (t : Byte) :
    declaredLength lowerOk (responseChars c t) = some c.length := by
  rw [responseChars, List.cons_append, List.flatMap_cons, List.append_assoc, List.append_assoc,
    declaredLength_hexEnc_append, BitVec.toNat_ofNat, Nat.mod_eq_of_lt (by omega)]

/-- A frame of the layout of R35 is accepted, and its payload is the bytes it was laid out for (R62, R66(a)). -/
theorem opDecFrame_responseChars {P : Params} {c : List Byte} (hc : c.length ≤ 255)
    (hfit : bufferFits P (3 * c.length + 8) = true) (t : Byte) :
    opDecFrame P (responseChars c t) =
      .ok (.payload (BitVec.ofNat 8 c.length :: c ++ [t]) (3 * c.length + 8)) := by
  have hlen := responseChars_length c t
  rw [opDecFrame_eq_ok_iff]
  refine ⟨c.length, declaredLength_responseChars _ hc t, hfit, hlen.ge, ?_⟩
  rw [← hlen, List.take_length, strip_responseChars, hexPairs_flatMap_hexEnc]
  refine ⟨fun x hx => ?digits, ?even, rfl⟩
  case digits =>
    obtain ⟨b, _, hb⟩ := List.mem_flatMap.mp hx
    exact isHex_of_mem_hexEnc hb
  case even =>
    simp only [List.length_flatMap, hexEnc_length, List.map_const', List.sum_replicate, smul_eq_mul,
      Nat.mul_mod_left]

/-- Settles O34: the header's digits are the first two of the consumed digits, and the layout of R35 is accepted
with the bytes it was laid out for. -/
theorem payloadBeginsWithTheLengthByte : Obligations.PayloadBeginsWithTheLengthByte := by
  refine ⟨fun P raw p n h => ?firstByte, fun P c t hc hfit => opDecFrame_responseChars hc hfit t⟩
  case firstByte =>
    obtain ⟨len, hd, _, _, _, _, hpayload⟩ := opDecFrame_eq_ok_iff.mp h
    obtain ⟨rfl, _⟩ := Value.payload.inj hpayload
    obtain ⟨x, rest, hp, rfl⟩ := hexPairs_strip_take_eq_cons hd (3 * len + 6)
    rw [hp]
    exact ⟨Nat.le_add_left 1 rest.length, hd⟩

end Sys2Proof.Machine
end

section
/-! The accumulator of the round loop, and the block transforms as inverse bijections (43_cipher.md R74 to R77). -/

namespace Sys2Proof.Machine

/-! ### The accumulator -/

/-- One advance of the accumulator (R77). -/
theorem roundSum_succ (r : Nat) : roundSum (r + 1) = roundSum r + delta := by
  rw [roundSum, Nat.succ_mul, BitVec.ofNat_add]
  rfl

/-- Encryption advances the accumulator once a round, whatever the key and the data. -/
theorem encRound_iterate_sum (c : Combine) (k : Key) (v0 v1 : Word) (r : Nat) :
    ((encRound c k)^[r] { v0 := v0, v1 := v1, sum := 0 }).sum = roundSum r := by
  induction r with
  | zero => rfl
  | succ r ih => rw [Function.iterate_succ_apply', roundSum_succ, ← ih]; rfl

/-- Decryption starts where sixteen advances end, and takes one back a round. -/
theorem decRound_iterate_sum (c : Combine) (k : Key) (v0 v1 : Word) {r : Nat} (hr : r ≤ rounds) :
    ((decRound c k)^[r] { v0 := v0, v1 := v1, sum := decSumInit }).sum = roundSum (rounds - r) := by
  induction r with
  | zero => rfl
  | succ r ih =>
    have hback : roundSum (rounds - r) = roundSum (rounds - (r + 1)) + delta := by
      rw [← roundSum_succ]
      congr 1
      omega
    rw [Function.iterate_succ_apply', ← add_sub_cancel_right (roundSum _) delta, ← hback, ← ih (by omega)]
    rfl

/-- Settles O53: one advance of the accumulator each round, up from zero or down from the sixteenth, and the table
by evaluation. -/
theorem accumulatorScheduleIsFixed : Obligations.AccumulatorScheduleIsFixed :=
  ⟨fun c k v0 v1 r hr => ⟨encRound_iterate_sum c k v0 v1 r, decRound_iterate_sum c k v0 v1 hr⟩, by decide⟩

/-! ### The block transforms -/

/-- What the sixteen encryption rounds leave is what block decryption starts from (R75). -/
theorem encRound_iterate_rounds (c : Combine) (k : Key) (v0 v1 : Word) :
    (encRound c k)^[rounds] { v0 := v0, v1 := v1, sum := 0 } =
      { v0 := (encBlock c k v0 v1).1, v1 := (encBlock c k v0 v1).2, sum := decSumInit } :=
  congrArg (Lanes.mk _ _) (encRound_iterate_sum c k v0 v1 rounds)

/-- What the sixteen decryption rounds leave is what block encryption starts from (R74). -/
theorem decRound_iterate_rounds (c : Combine) (k : Key) (v0 v1 : Word) :
    (decRound c k)^[rounds] { v0 := v0, v1 := v1, sum := decSumInit } =
      { v0 := (decBlock c k v0 v1).1, v1 := (decBlock c k v0 v1).2, sum := 0 } :=
  congrArg (Lanes.mk _ _) (decRound_iterate_sum c k v0 v1 le_rfl)

theorem decBlock_encBlock (c : Combine) (k : Key) (v0 v1 : Word) :
    decBlock c k (encBlock c k v0 v1).1 (encBlock c k v0 v1).2 = (v0, v1) := by
  have hinv : Function.LeftInverse (decRound c k) (encRound c k) := decRound_encRound c k
  rw [decBlock, ← encRound_iterate_rounds, hinv.iterate rounds]

theorem encBlock_decBlock (c : Combine) (k : Key) (v0 v1 : Word) :
    encBlock c k (decBlock c k v0 v1).1 (decBlock c k v0 v1).2 = (v0, v1) := by
  have hinv : Function.LeftInverse (encRound c k) (decRound c k) := encRound_decRound c k
  rw [encBlock, ← decRound_iterate_rounds, hinv.iterate rounds]

/-- Settles O52: each round undoes the other kind's, and each transform ends with the accumulator the other
starts from. -/
theorem blockTransformsAreInverse : Obligations.BlockTransformsAreInverse := fun c k v0 v1 =>
  ⟨decBlock_encBlock c k v0 v1, encBlock_decBlock c k v0 v1⟩

end Sys2Proof.Machine
end

section
/-! Zero padding, and the stream wrapper seen as the block transform applied to each pair of words of the padded
input (43_cipher.md R78 to R81). -/

namespace Sys2Proof.Machine

/-! ### Padding -/

/-- The padded length is the length rounded up to a multiple of 32 (R78). -/
theorem pad_length (b : List Byte) : (pad b).length = 32 * ((b.length + 31) / 32) := by
  rw [pad, List.length_append, zeros_length, padBytes]
  omega

theorem pad_length_mod (b : List Byte) : (pad b).length % 32 = 0 := by
  rw [pad_length, Nat.mul_mod_right]

theorem pad_take (b : List Byte) : (pad b).take b.length = b := List.take_left

theorem eq_zero_of_mem_drop_pad {b : List Byte} {x : Byte} (h : x ∈ (pad b).drop b.length) : x = 0 := by
  rw [pad, List.drop_left] at h
  exact List.eq_of_mem_replicate h

/-- Whole groups of 32 bytes in front do not change the padding. -/
theorem pad_append {a : List Byte} (h : a.length % 32 = 0) (b : List Byte) : pad (a ++ b) = a ++ pad b := by
  rw [pad, pad, List.length_append, List.append_assoc, padBytes, Nat.add_mod, h, Nat.zero_add, Nat.mod_mod]

theorem pad_of_aligned {b : List Byte} (h : b.length % 32 = 0) : pad b = b := by
  rw [← List.append_nil b, pad_append h]
  rfl

/-- Settles O54: the padded length is the length rounded up, and what is appended is zeros. -/
theorem padReachesTheNextMultipleOf32 : Obligations.PadReachesTheNextMultipleOf32 := by
  intro b
  have hlen := pad_length b
  exact ⟨pad_length_mod b, by omega, by omega, pad_take b, fun _ => eq_zero_of_mem_drop_pad⟩

/-! ### Blocks as pairs of words -/

/-- A byte taken above the lower part of a concatenation is taken from the upper part. -/
theorem extractLsb'_append_add {n m : Nat} (hi : BitVec n) (lo : BitVec m) (start len : Nat) :
    (hi ++ lo).extractLsb' (m + start) len = hi.extractLsb' start len := by
  rw [BitVec.extractLsb'_append_eq_of_le (Nat.le_add_right m start), Nat.add_sub_cancel_left]

/-- Four bytes put together as a word and taken apart again (R7). -/
theorem bytesLe_wordOfBytes (b0 b1 b2 b3 : Byte) : bytesLe (wordOfBytes b0 b1 b2 b3) = [b0, b1, b2, b3] := by
  have habove0 (start : Nat) :
      (wordOfBytes b0 b1 b2 b3).extractLsb' (8 + start) 8 = (b3 ++ b2 ++ b1).extractLsb' start 8 :=
    extractLsb'_append_add (b3 ++ b2 ++ b1) b0 start 8
  have habove1 (start : Nat) : (b3 ++ b2 ++ b1).extractLsb' (8 + start) 8 = (b3 ++ b2).extractLsb' start 8 :=
    extractLsb'_append_add (b3 ++ b2) b1 start 8
  have h0 : (wordOfBytes b0 b1 b2 b3).extractLsb' 0 8 = b0 := BitVec.extractLsb'_append_eq_right
  have h1 : (wordOfBytes b0 b1 b2 b3).extractLsb' 8 8 = b1 :=
    (habove0 0).trans BitVec.extractLsb'_append_eq_right
  have h2 : (wordOfBytes b0 b1 b2 b3).extractLsb' 16 8 = b2 :=
    (habove0 8).trans ((habove1 0).trans BitVec.extractLsb'_append_eq_right)
  have h3 : (wordOfBytes b0 b1 b2 b3).extractLsb' 24 8 = b3 :=
    (habove0 16).trans ((habove1 8).trans BitVec.extractLsb'_append_eq_left)
  rw [bytesLe, h0, h1, h2, h3]

theorem byteAt_append_right (a b : List Byte) (i : Nat) : byteAt (a ++ b) (a.length + i) = byteAt b i := by
  rw [byteAt, byteAt, List.getD_append_right _ _ _ _ (Nat.le_add_right _ _), Nat.add_sub_cancel_left]

theorem le32_append_right (a b : List Byte) (o : Nat) : le32 (a ++ b) (a.length + o) = le32 b o := by
  simp only [le32, Nat.add_assoc, byteAt_append_right]

theorem le32_blockOut_append_zero (w : Word × Word) (q : List Byte) : le32 (blockOut w ++ q) 0 = w.1 :=
  wordOfBytes_bytesLe w.1

theorem le32_blockOut_append_four (w : Word × Word) (q : List Byte) : le32 (blockOut w ++ q) 4 = w.2 :=
  wordOfBytes_bytesLe w.2

theorem flatMap_blockOut_length (ws : List (Word × Word)) : (ws.flatMap blockOut).length = 8 * ws.length := by
  simp only [List.length_flatMap, blockOut_length, List.map_const', List.sum_replicate, smul_eq_mul, Nat.mul_comm]

/-- Bytes that fill `n` blocks are the little-endian bytes of some pairs of words. -/
theorem exists_eq_flatMap_blockOut (n : Nat) {q : List Byte} (h : q.length = 8 * n) :
    ∃ ws : List (Word × Word), q = ws.flatMap blockOut := by
  induction n generalizing q with
  | zero => exact ⟨[], List.eq_nil_of_length_eq_zero h⟩
  | succ n ih =>
    match q, h with
    | b0 :: b1 :: b2 :: b3 :: b4 :: b5 :: b6 :: b7 :: rest, h =>
      obtain ⟨ws, rfl⟩ := ih (q := rest) (Nat.add_right_cancel (m := 8) h)
      refine ⟨(wordOfBytes b0 b1 b2 b3, wordOfBytes b4 b5 b6 b7) :: ws, ?_⟩
      rw [List.flatMap_cons, blockOut, bytesLe_wordOfBytes, bytesLe_wordOfBytes]
      rfl

/-- A whole number of padding units is a whole number of blocks. -/
theorem exists_blocks_of_aligned {q : List Byte} (h : q.length % 32 = 0) :
    ∃ ws : List (Word × Word), q = ws.flatMap blockOut :=
  exists_eq_flatMap_blockOut (q.length / 8) (by omega)

/-! ### The stream loop -/

/-- The stream loop on a first block: that block is transformed on its own, and the rest as a stream (R79). -/
theorem streamBlocks_blockOut_append (blk : Word → Word → Word × Word) (w : Word × Word) (q : List Byte) :
    streamBlocks blk (blockOut w ++ q) = blockOut (blk w.1 w.2) ++ streamBlocks blk q := by
  have hcount : (blockOut w ++ q).length / blockBytes = q.length / blockBytes + 1 := by
    rw [List.length_append, blockOut_length, blockBytes]
    omega
  have hnext (i : Nat) : blockBytes * (i + 1) = (blockOut w).length + blockBytes * i := by
    rw [blockOut_length, blockBytes]
    omega
  simp only [streamBlocks, hcount, List.range_succ_eq_map, List.flatMap_cons, List.flatMap_map, Nat.mul_zero,
    Nat.zero_add, le32_blockOut_append_zero, le32_blockOut_append_four, Nat.succ_eq_add_one, hnext, Nat.add_assoc,
    le32_append_right]

/-- The stream loop on blocks given by their words: the block transform on each pair (R79, R80). -/
theorem streamBlocks_flatMap_blockOut (blk : Word → Word → Word × Word) (ws : List (Word × Word)) :
    streamBlocks blk (ws.flatMap blockOut) = (ws.map (Function.uncurry blk)).flatMap blockOut := by
  induction ws with
  | nil => rfl
  | cons w ws ih => rw [List.flatMap_cons, streamBlocks_blockOut_append, ih]; rfl

theorem streamBlocks_length (blk : Word → Word → Word × Word) {q : List Byte} (h : q.length % 32 = 0) :
    (streamBlocks blk q).length = q.length := by
  obtain ⟨ws, rfl⟩ := exists_blocks_of_aligned h
  rw [streamBlocks_flatMap_blockOut, flatMap_blockOut_length, flatMap_blockOut_length, List.length_map]

/-- A block transform that undoes another does so along the whole stream. -/
theorem streamBlocks_leftInverse {enc dec : Word → Word → Word × Word}
    (hinv : ∀ v0 v1, dec (enc v0 v1).1 (enc v0 v1).2 = (v0, v1)) {q : List Byte} (h : q.length % 32 = 0) :
    streamBlocks dec (streamBlocks enc q) = q := by
  have hpair : Function.uncurry dec ∘ Function.uncurry enc = id := funext fun w => hinv w.1 w.2
  obtain ⟨ws, rfl⟩ := exists_blocks_of_aligned h
  rw [streamBlocks_flatMap_blockOut, streamBlocks_flatMap_blockOut, List.map_map, hpair, List.map_id]

theorem streamBlocks_append (blk : Word → Word → Word × Word) {p q : List Byte} (hp : p.length % 32 = 0)
    (hq : q.length % 32 = 0) : streamBlocks blk (p ++ q) = streamBlocks blk p ++ streamBlocks blk q := by
  obtain ⟨ws, rfl⟩ := exists_blocks_of_aligned hp
  obtain ⟨vs, rfl⟩ := exists_blocks_of_aligned hq
  simp only [← List.flatMap_append, streamBlocks_flatMap_blockOut, List.map_append]

/-! ### ENCSTR and DECSTR on the bytes -/

theorem encStream_length (c : Combine) (k : Key) (b : List Byte) : (encStream c k b).length = (pad b).length :=
  streamBlocks_length _ (pad_length_mod b)

theorem decStream_length (c : Combine) (k : Key) (b : List Byte) : (decStream c k b).length = (pad b).length :=
  streamBlocks_length _ (pad_length_mod b)

/-- The output of a stream operation is as long as the padded input, so the other operation adds no padding to it
(R81). -/
theorem decStream_encStream (c : Combine) (k : Key) (b : List Byte) : decStream c k (encStream c k b) = pad b := by
  have haligned : (encStream c k b).length % 32 = 0 := by rw [encStream_length, pad_length_mod]
  rw [decStream, pad_of_aligned haligned, encStream,
    streamBlocks_leftInverse (decBlock_encBlock c k) (pad_length_mod b)]

theorem encStream_decStream (c : Combine) (k : Key) (b : List Byte) : encStream c k (decStream c k b) = pad b := by
  have haligned : (decStream c k b).length % 32 = 0 := by rw [decStream_length, pad_length_mod]
  rw [encStream, pad_of_aligned haligned, decStream,
    streamBlocks_leftInverse (encBlock_decBlock c k) (pad_length_mod b)]

theorem encStream_pad (c : Combine) (k : Key) (b : List Byte) : encStream c k (pad b) = encStream c k b := by
  rw [encStream, pad_of_aligned (pad_length_mod b), encStream]

theorem encStream_append (c : Combine) (k : Key) {a : List Byte} (h : a.length % 32 = 0) (b : List Byte) :
    encStream c k (a ++ b) = encStream c k a ++ encStream c k b := by
  rw [encStream, pad_append h, streamBlocks_append _ h (pad_length_mod b), encStream, pad_of_aligned h, encStream]

/-- Settles O57: on a whole number of blocks the stream is the block transform on each pair of words, and padding
makes every input such a number. -/
theorem streamLaws : Obligations.StreamLaws := by
  intro c k
  refine ⟨fun b => ⟨encStream_length c k b, decStream_length c k b⟩, fun b => ?roundTrip, encStream_decStream c k,
    fun b => (encStream_pad c k b).symm, fun a b h => encStream_append c k h b⟩
  case roundTrip =>
    rw [decStream_encStream]
    exact ⟨rfl, pad_of_aligned, pad_take b, fun _ => eq_zero_of_mem_drop_pad⟩

end Sys2Proof.Machine
end

section
/-! The four cipher operations while no key is valid (43_cipher.md R83). -/

namespace Sys2Proof.Machine

/-! ### The cipher operations as instructions: each ends with an outcome alone -/

theorem exec_encBlk (v0 v1 : Word) (s : State) :
    exec (.encBlk v0 v1) s = conclude s (opEncBlk device s v0 v1) := rfl
theorem exec_decBlk (v0 v1 : Word) (s : State) :
    exec (.decBlk v0 v1) s = conclude s (opDecBlk device s v0 v1) := rfl
theorem exec_encStr (b : List Byte) (s : State) : exec (.encStr b) s = conclude s (opEncStr device s b) := rfl
theorem exec_decStr (b : List Byte) (s : State) : exec (.decStr b) s = conclude s (opDecStr device s b) := rfl

/-! ### The refusal, for every value of the parameters -/

section
variable (P : Params) {s : State} (h : s.keyValid = false)
include h

theorem opEncBlk_of_invalid (v0 v1 : Word) : opEncBlk P s v0 v1 = .refused .keyNotValid := by
  simp [opEncBlk, h]
theorem opDecBlk_of_invalid (v0 v1 : Word) : opDecBlk P s v0 v1 = .refused .keyNotValid := by
  simp [opDecBlk, h]
theorem opEncStr_of_invalid (b : List Byte) : opEncStr P s b = .refused .keyNotValid := by
  simp [opEncStr, h]
theorem opDecStr_of_invalid (b : List Byte) : opDecStr P s b = .refused .keyNotValid := by
  simp [opDecStr, h]

end

/-- Settles O58: the valid bit is tested first, and a refusal writes the response and the mark alone. -/
theorem cipherNeedsAValidKey : Obligations.CipherNeedsAValidKey := by
  intro s h
  refine ⟨fun v0 v1 => ⟨?encBlk, ?decBlk⟩, fun b => ⟨?encStr, ?decStr⟩⟩
  case encBlk => rw [exec_encBlk, opEncBlk_of_invalid device h, conclude_refused]
  case decBlk => rw [exec_decBlk, opDecBlk_of_invalid device h, conclude_refused]
  case encStr => rw [exec_encStr, opEncStr_of_invalid device h, conclude_refused]
  case decStr => rw [exec_decStr, opDecStr_of_invalid device h, conclude_refused]

end Sys2Proof.Machine
end

section
/-! How the decoder and the encoder undo each other, form by form (30_encoding.md R34, R36, R39, R40, R41). -/

namespace Sys2Proof.Machine

/-! ### The select codes -/

/-- An operation or a reserved code has an encoding for every operand value (R40). -/
theorem wellFormed_decodeSelect (c : BitVec 4) (p : Ports) : WellFormed (decodeSelect c p) = true := by
  unfold decodeSelect
  split <;> rfl

/-- What a code selects has that code: the sixteen rows of R40 and R41(a), one by one. -/
theorem selectCode_decodeSelect (c : BitVec 4) (p : Ports) : selectCode (decodeSelect c p) = some c := by
  obtain ⟨n⟩ := c
  fin_cases n <;> rfl

/-- Settles O4: each code is looked up in the table. -/
theorem selectCodesNameTheTableRows : Obligations.SelectCodesNameTheTableRows := fun _ =>
  ⟨rfl, rfl, rfl, rfl, rfl, rfl, rfl, rfl, rfl, rfl, rfl, rfl⟩

/-- Settles O5: by evaluation. -/
theorem wordsFromTheTableDecode : Obligations.WordsFromTheTableDecode := by
  unfold Obligations.WordsFromTheTableDecode
  decide

/-! ### Command numbers -/

theorem decode_command_zero : decode (.command 0x00) = .ok .getIdentity := rfl

/-- The set of commands is closed (R39, R41(b)). -/
theorem decode_command_of_ne {cmd : Byte} (h : cmd ≠ 0x00) : decode (.command cmd) = .error .noSuchCommand :=
  if_neg h

/-! ### Request texts -/

/-- The content read from a text is what the text is the request frame of (R34). -/
theorem parseRequest_eq_some_iff {chars c : List Byte} :
    parseRequest chars = some c ↔ c.length ≤ 255 ∧ requestChars c = chars := by
  have hcontent (c : List Byte) : ((hexPairs false (requestChars c)).drop 1).dropLast = c := by
    rw [hexPairs_requestChars, List.cons_append, List.drop_one, List.tail_cons, List.dropLast_concat]
  constructor
  · intro h
    simp only [parseRequest, Option.ite_none_right_eq_some, Option.some.injEq] at h
    obtain ⟨⟨hlen, hchars⟩, rfl⟩ := h
    exact ⟨hlen, hchars⟩
  · rintro ⟨hlen, rfl⟩
    simp only [parseRequest, hcontent]
    exact if_pos ⟨hlen, trivial⟩

theorem decode_requestText_eq_ok_iff {chars : List Byte} {i : Instr} :
    decode (.requestText chars) = .ok i ↔ ∃ c, i = .requestFrame c ∧ c.length ≤ 255 ∧ requestChars c = chars := by
  simp only [← parseRequest_eq_some_iff, decode]
  cases parseRequest chars with
  | none => simp
  | some c => simp [eq_comm]

theorem decode_requestText_requestChars {c : List Byte} (h : c.length ≤ 255) :
    decode (.requestText (requestChars c)) = .ok (.requestFrame c) :=
  decode_requestText_eq_ok_iff.mpr ⟨c, rfl, h, rfl⟩

/-- A text that is no request frame is rejected by name. -/
theorem decode_requestText_error {chars : List Byte} {e : DecodeError}
    (h : decode (.requestText chars) = .error e) : e = .notARequestFrame := by
  simp only [decode] at h
  split at h <;> cases h
  rfl

/-! ### Response bytes -/

theorem decode_responseText_eq_ok_iff {raw : List Byte} {i : Instr} :
    decode (.responseText raw) = .ok i ↔ i = .responseFrame raw ∧ WellFormed (.responseFrame raw) = true := by
  rw [decode, WellFormed]
  cases fillsItsBudget device.hexLowerOk raw with
  | true => simp [eq_comm]
  | false => simp

/-- Bytes that do not fill their own budget are rejected with those bytes. -/
theorem decode_responseText_error {raw : List Byte} {e : DecodeError}
    (h : decode (.responseText raw) = .error e) : e = .notAResponseFrame raw := by
  simp only [decode] at h
  split at h <;> cases h
  rfl

/-! ### Both directions -/

/-- Settles O6: a select form decodes by its code and its ports, a command by its number, a request by the hex
pairs of its characters, and a response is its own bytes. -/
theorem decodeInvertsEncode : Obligations.DecodeInvertsEncode := by
  intro i h
  cases i with
  | getIdentity => exact decode_command_zero
  | requestFrame c => exact decode_requestText_requestChars (of_decide_eq_true h)
  | responseFrame raw => exact decode_responseText_eq_ok_iff.mpr ⟨rfl, h⟩
  | _ => rfl

/-- What the decoder accepts is well-formed. -/
theorem wellFormed_of_decode {inv : Invocation} {i : Instr} (h : decode inv = .ok i) : WellFormed i = true := by
  cases inv with
  | select c p =>
    cases h
    exact wellFormed_decodeSelect c p
  | command cmd =>
    rw [decode] at h
    split at h <;> cases h
    rfl
  | requestText chars =>
    obtain ⟨c, rfl, hlen, _⟩ := decode_requestText_eq_ok_iff.mp h
    exact decide_eq_true hlen
  | responseText raw =>
    obtain ⟨rfl, hwf⟩ := decode_responseText_eq_ok_iff.mp h
    exact hwf

/-- A wire form that decodes is the encoding of what it decodes to. -/
theorem encode_of_decode {inv : Invocation} {i : Instr} (h : decode inv = .ok i)
    (hwire : ∀ c p, inv ≠ .select c p) : encode i = inv := by
  cases inv with
  | select c p => exact absurd rfl (hwire c p)
  | command cmd =>
    rw [decode] at h
    split at h
    · next hcmd =>
      cases h
      rw [hcmd, encode]
    · cases h
  | requestText chars =>
    obtain ⟨c, rfl, _, rfl⟩ := decode_requestText_eq_ok_iff.mp h
    rfl
  | responseText raw =>
    obtain ⟨rfl, _⟩ := decode_responseText_eq_ok_iff.mp h
    rfl

/-- Settles O7: form by form, from what each decodes to. -/
theorem everyDecodedWireFormIsItsEncoding : Obligations.EveryDecodedWireFormIsItsEncoding := by
  refine ⟨fun _ _ => wellFormed_of_decode, fun _ _ => encode_of_decode, fun c p i h => ?_⟩
  cases h
  exact selectCode_decodeSelect c p

end Sys2Proof.Machine
end

section
/-! The encoder's frames character by character: CHKFOLD, the layout of R34, ENCCMD and the two rows that do what
it and ENCFRAME do, and the digits of R31 and R32. -/

namespace Sys2Proof.Machine

/-! ### CHKFOLD as an instruction -/

/-- CHKFOLD ends with an outcome that its operands alone fix, and writes no state (R45). -/
theorem exec_chkFold (acc : Byte) (b : List Byte) (s : State) :
    exec (.chkFold acc b) s = conclude s (opChkFold device acc b) := rfl

theorem opChkFold_of_fits {P : Params} {b : List Byte} (h : bufferFits P b.length = true) (acc : Byte) :
    opChkFold P acc b = .ok (.byte (chkFold acc b)) := if_pos h

/-- Settles O22: the fold adds the sum of the bytes to its starting value, and truncates. -/
theorem chkFoldAddsTheBytesToAcc : Obligations.ChkFoldAddsTheBytesToAcc := by
  intro acc b s h
  rw [exec_chkFold, opChkFold_of_fits h, conclude_ok, chkFold_eq_add_sum, BitVec.ofNat_add, BitVec.ofNat_toNat,
    BitVec.setWidth_eq, ofNat_sum_toNat]

/-! ### The layout of a request frame -/

theorem byteAt_append_left {a : List Byte} {i : Nat} (h : i < a.length) (b : List Byte) :
    byteAt (a ++ b) i = byteAt a i := List.getD_append _ _ _ _ h

/-- In a sequence of hex pairs, pair `i` is that of byte `i`. -/
theorem slice_flatMap_hexEnc {b : List Byte} {i : Nat} (h : i < b.length) :
    slice (b.flatMap hexEnc) (2 * i) (2 * i + 2) = hexEnc (byteAt b i) := by
  induction b generalizing i with
  | nil => exact absurd h (Nat.not_lt_zero i)
  | cons x b ih =>
    cases i with
    | zero => rfl
    | succ i => exact ih (Nat.lt_of_succ_lt_succ h)

theorem slice_requestChars_header (c : List Byte) :
    slice (requestChars c) 0 2 = hexEnc (BitVec.ofNat 8 c.length) := by
  rw [requestChars_eq_flatMap]
  exact slice_flatMap_hexEnc (i := 0) (Nat.succ_pos _)

theorem slice_requestChars_content {c : List Byte} {i : Nat} (h : i < c.length) :
    slice (requestChars c) (2 + 2 * i) (4 + 2 * i) = hexEnc (byteAt c i) := by
  have hpos : 2 + 2 * i = 2 * (i + 1) ∧ 4 + 2 * i = 2 * (i + 1) + 2 := by omega
  rw [requestChars_eq_flatMap, hpos.1, hpos.2,
    slice_flatMap_hexEnc (by simp only [List.length_append, List.length_cons]; omega)]
  exact congrArg hexEnc (byteAt_append_left h [chkSum c])

theorem slice_requestChars_checksum (c : List Byte) :
    slice (requestChars c) (2 + 2 * c.length) (4 + 2 * c.length) = hexEnc (chkSum c) := by
  have hpos : 2 + 2 * c.length = 2 * (c.length + 1) ∧ 4 + 2 * c.length = 2 * (c.length + 1) + 2 := by omega
  rw [requestChars_eq_flatMap, hpos.1, hpos.2, slice_flatMap_hexEnc (by simp)]
  exact congrArg hexEnc (byteAt_append_right c [chkSum c] 0)

theorem opEncFrame_of_fits {P : Params} {c : List Byte} (hc : c.length ≤ maxContent)
    (hfit : bufferFits P c.length = true) : opEncFrame P c = .ok (.buffer (requestChars c)) := by
  rw [opEncFrame, if_neg (Nat.not_lt.mpr hc), if_pos hfit]

/-- Settles O24: the frame is the hex pairs of length, content and checksum, and pair `i` is that of byte `i`. -/
theorem encFrameLaysOutTheRequest : Obligations.EncFrameLaysOutTheRequest := by
  intro c s hc hfit
  refine ⟨requestChars c, ?_, requestChars_length c, slice_requestChars_header c,
    fun _ => slice_requestChars_content, slice_requestChars_checksum c⟩
  rw [exec_encFrame, opEncFrame_of_fits hc hfit, conclude_ok]

/-- REQUEST_FRAME puts on the wire what ENCFRAME gives (log 4). -/
theorem exec_requestFrame (c : List Byte) (s : State) :
    exec (.requestFrame c) s = conclude s (opEncFrame device c) := rfl

/-- Settles O29: both rows end with the frame of the content, which is the content's encoding. -/
theorem requestFrameIsReadBackFromItsCharacters : Obligations.RequestFrameIsReadBackFromItsCharacters := by
  intro c s hc hfit
  refine ⟨requestChars c, ?_, ?_, decode_requestText_requestChars hc⟩
  · rw [exec_requestFrame, opEncFrame_of_fits hc hfit, conclude_ok]
  · rw [exec_encFrame, opEncFrame_of_fits hc hfit, conclude_ok]

/-! ### The one command -/

/-- The request frame of GET_IDENTITY is "018080" (R39). -/
theorem requestChars_identityContent : requestChars identityContent = [0x30, 0x31, 0x38, 0x30, 0x38, 0x30] := by
  decide

theorem exec_encCmd (cmd : Byte) (s : State) : exec (.encCmd cmd) s = conclude s (opEncCmd cmd) := rfl

theorem opEncCmd_zero : opEncCmd 0x00 = .ok (.buffer (requestChars identityContent)) := rfl

theorem opEncCmd_of_ne {cmd : Byte} (h : cmd ≠ 0x00) : opEncCmd cmd = .refused .unknownCommand := by
  rw [opEncCmd, catalogue, if_neg h]

/-- Settles O27: the catalogue has the number 0x00 alone. -/
theorem encCmdFramesTheOneCommand : Obligations.EncCmdFramesTheOneCommand := by
  refine ⟨fun s => ?zero, fun cmd s h => ?other⟩
  case zero => rw [exec_encCmd, opEncCmd_zero, requestChars_identityContent, conclude_ok]
  case other => rw [exec_encCmd, opEncCmd_of_ne h, conclude_refused]

theorem exec_getIdentity (s : State) :
    exec .getIdentity s = conclude s (.ok (.buffer (requestChars identityContent))) := rfl

/-- Settles O28: GET_IDENTITY gives the catalogue's one frame, and the decoder knows no other number. -/
theorem getIdentityIsItsRequestFrame : Obligations.GetIdentityIsItsRequestFrame := by
  refine ⟨fun s => ?_, decode_command_zero, fun _ => decode_command_of_ne⟩
  rw [exec_getIdentity, requestChars_identityContent, conclude_ok]

/-! ### Hex digits both ways -/

theorem highNibble_toNat (b : Byte) : (highNibble b).toNat = b.toNat / 16 := by
  have hb := b.isLt
  rw [highNibble, BitVec.extractLsb'_toNat, Nat.shiftRight_eq_div_pow]
  omega

theorem lowNibble_toNat (b : Byte) : (lowNibble b).toNat = b.toNat % 16 := by
  rw [lowNibble, BitVec.extractLsb'_toNat, Nat.shiftRight_zero]

/-- A nibble as a byte keeps its value. -/
theorem toNat_setWidth_nibble (n : BitVec 4) : (n.setWidth 8).toNat = n.toNat :=
  BitVec.toNat_setWidth_of_le (by decide)

section
variable {lowerOk : Bool} {x : Byte}

theorem hexVal_of_decimal (h : 0x30 ≤ x.toNat ∧ x.toNat ≤ 0x39) : hexVal lowerOk x = some (x - 0x30) := if_pos h

theorem hexVal_of_upper (h : 0x41 ≤ x.toNat ∧ x.toNat ≤ 0x46) :
    hexVal lowerOk x = some (x - 0x41 + 10) := by
  have h0 : ¬ (0x30 ≤ x ∧ x ≤ 0x39) := fun h0 : 0x30 ≤ x.toNat ∧ x.toNat ≤ 0x39 => by omega
  rw [hexVal, if_neg h0]
  exact if_pos h

theorem hexVal_of_lower (h : 0x61 ≤ x.toNat ∧ x.toNat ≤ 0x66) :
    hexVal lowerOk x = if lowerOk then some (x - 0x61 + 10) else none := by
  have h0 : ¬ (0x30 ≤ x ∧ x ≤ 0x39) := fun h0 : 0x30 ≤ x.toNat ∧ x.toNat ≤ 0x39 => by omega
  have h1 : ¬ (0x41 ≤ x ∧ x ≤ 0x46) := fun h1 : 0x41 ≤ x.toNat ∧ x.toNat ≤ 0x46 => by omega
  rw [hexVal, if_neg h0, if_neg h1]
  exact if_pos h

theorem hexVal_of_other (h0 : ¬ (0x30 ≤ x.toNat ∧ x.toNat ≤ 0x39)) (h1 : ¬ (0x41 ≤ x.toNat ∧ x.toNat ≤ 0x46))
    (h2 : ¬ (0x61 ≤ x.toNat ∧ x.toNat ≤ 0x66)) : hexVal lowerOk x = none :=
  (if_neg h0).trans ((if_neg h1).trans (if_neg h2))

/-- Which characters are hex digits (R32). -/
theorem isHex_iff : isHex lowerOk x = true ↔ (0x30 ≤ x.toNat ∧ x.toNat ≤ 0x39) ∨
    (0x41 ≤ x.toNat ∧ x.toNat ≤ 0x46) ∨ (lowerOk = true ∧ 0x61 ≤ x.toNat ∧ x.toNat ≤ 0x66) := by
  by_cases h0 : 0x30 ≤ x.toNat ∧ x.toNat ≤ 0x39
  · simp [isHex, hexVal_of_decimal h0, h0]
  by_cases h1 : 0x41 ≤ x.toNat ∧ x.toNat ≤ 0x46
  · simp [isHex, hexVal_of_upper h1, h1]
  by_cases h2 : 0x61 ≤ x.toNat ∧ x.toNat ≤ 0x66
  · cases lowerOk <;> simp [isHex, hexVal_of_lower h2, h0, h1, h2]
  · simp [isHex, hexVal_of_other h0 h1 h2, h0, h1, h2]

end

/-- The digit of a nibble (R31), with the test on its value. -/
theorem digitChar_eq (n : BitVec 4) :
    digitChar n = if n.toNat ≤ 9 then 0x30 + n.setWidth 8 else 0x41 + (n.setWidth 8 - 10) := rfl

/-- Settles O30: the digits are those of the two nibbles, and the characters fall into the ranges of R32. -/
theorem hexDigitsReadBack : Obligations.HexDigitsReadBack := by
  refine ⟨fun b lowerOk => ⟨(highNibble b).setWidth 8, (lowNibble b).setWidth 8, ?digits, ?high, ?low, ?values,
    hexByte_nibbles b⟩, fun x lowerOk => ⟨fun h => ⟨_, hexVal_of_decimal h, ?decimal⟩,
    fun h => ⟨_, hexVal_of_upper h, ?upper⟩, fun h hlower => ⟨x - 0x61 + 10, ?taken, ?lower⟩,
    fun h hlower => ?notTaken, hexVal_of_other, isHex_iff⟩⟩
  case digits => rw [hexEnc, digitChar_eq, digitChar_eq, highNibble_toNat, lowNibble_toNat]
  case high => rw [toNat_setWidth_nibble, highNibble_toNat]
  case low => rw [toNat_setWidth_nibble, lowNibble_toNat]
  case values => simp only [hexEnc, List.map_cons, List.map_nil, hexVal_digitChar]
  case taken => rw [hexVal_of_lower h, if_pos hlower]
  case notTaken => rw [hexVal_of_lower h, if_neg (Bool.eq_false_iff.mp hlower)]
  case decimal | upper | lower => bv_omega

end Sys2Proof.Machine
end

section
/-! The frame decoder on the bytes it consumes: digit pairs, stripping, the bytes beyond the budget, response frames
(42_frame_decode.md R57 to R66). -/

namespace Sys2Proof.Machine

/-! ### Pairing, digit by digit -/

theorem digitValue_toNat_lt {lowerOk : Bool} {x : Byte} (h : isHex lowerOk x = true) :
    (digitValue lowerOk x).toNat < 16 := by
  rcases isHex_iff.mp h with h0 | h1 | ⟨hlower, h2⟩
  · rw [digitValue, hexVal_of_decimal h0, Option.getD_some]
    bv_omega
  · rw [digitValue, hexVal_of_upper h1, Option.getD_some]
    bv_omega
  · rw [digitValue, hexVal_of_lower h2, if_pos hlower, Option.getD_some]
    bv_omega

/-- Two digits make a byte without overflow (R32). -/
theorem hexByte_toNat {hi lo : Byte} (hhi : hi.toNat < 16) (hlo : lo.toNat < 16) :
    (hexByte hi lo).toNat = 16 * hi.toNat + lo.toNat := by
  rw [hexByte]
  bv_omega

/-- Byte `k` of a pairing is the pair of digits `2k` and `2k + 1` (R59). -/
theorem byteAt_hexPairs {lowerOk : Bool} {k : Nat} : ∀ {b : List Byte}, k < (hexPairs lowerOk b).length →
    byteAt (hexPairs lowerOk b) k =
      hexByte (digitValue lowerOk (byteAt b (2 * k))) (digitValue lowerOk (byteAt b (2 * k + 1)))
  | [], h | [_], h => absurd h (Nat.not_lt_zero k)
  | _ :: _ :: rest, h => by
    cases k with
    | zero => rfl
    | succ k => exact byteAt_hexPairs (b := rest) (Nat.lt_of_succ_lt_succ h)

theorem byteAt_mem {b : List Byte} {i : Nat} (h : i < b.length) : byteAt b i ∈ b := by
  rw [byteAt, List.getD_eq_getElem b 0 h]
  exact List.getElem_mem h

/-- The pairing of an even number of digits is half as long. -/
theorem two_mul_hexPairs_length (lowerOk : Bool) {b : List Byte} (heven : b.length % 2 = 0) :
    2 * (hexPairs lowerOk b).length = b.length := by
  rw [hexPairs_length]
  omega

/-- Where all characters are digits, byte `k` of the pairing is 16 times the one digit plus the other. -/
theorem exists_digits_of_lt_hexPairs_length {lowerOk : Bool} {b : List Byte} {k : Nat}
    (hhex : ∀ x ∈ b, isHex lowerOk x = true) (hk : k < (hexPairs lowerOk b).length) :
    ∃ hi lo, hexVal lowerOk (byteAt b (2 * k)) = some hi ∧ hexVal lowerOk (byteAt b (2 * k + 1)) = some lo ∧
      (byteAt (hexPairs lowerOk b) k).toNat = 16 * hi.toNat + lo.toNat := by
  have hlen := hexPairs_length lowerOk b
  have hhi := hhex _ (byteAt_mem (i := 2 * k) (by omega))
  have hlo := hhex _ (byteAt_mem (i := 2 * k + 1) (by omega))
  refine ⟨_, _, hexVal_of_isHex hhi, hexVal_of_isHex hlo, ?_⟩
  rw [byteAt_hexPairs hk, hexByte_toNat (digitValue_toNat_lt hhi) (digitValue_toNat_lt hlo)]

/-- Settles O31: phases 3 and 4 decide, and the payload is the pairing of the consumed digits. -/
theorem decFrameDecodesTheConsumedBytes : Obligations.DecFrameDecodesTheConsumedBytes := by
  intro raw len s hd hfit hlen hhex heven
  refine ⟨_, ?_, two_mul_hexPairs_length device.hexLowerOk heven,
    fun _ => exists_digits_of_lt_hexPairs_length hhex⟩
  rw [exec_decFrame, opDecFrame_of_full hd hfit hlen, decodeConsumed_of_even hhex heven,
    List.length_take_of_le hlen, conclude_ok]

/-! ### Stripping -/

theorem isStripped_iff {x : Byte} : isStripped x = true ↔ x = 0x20 ∨ x = 0x0D ∨ x = 0x0A := by
  simp only [isStripped, Bool.or_eq_true, beq_iff_eq, or_assoc]
  exact Iff.rfl

theorem mem_strip {x : Byte} {b : List Byte} : x ∈ strip b ↔ x ∈ b ∧ x ≠ 0x20 ∧ x ≠ 0x0D ∧ x ≠ 0x0A := by
  rw [strip, List.mem_filter, Bool.not_eq_true', ← Bool.not_eq_true, isStripped_iff, not_or, not_or]

/-- Stripping takes every space, CR and LF and no occurrence of any other character (R33). -/
theorem count_strip (x : Byte) (b : List Byte) :
    (strip b).count x = if x = 0x20 ∨ x = 0x0D ∨ x = 0x0A then 0 else b.count x := by
  split
  · next h => exact List.count_eq_zero.mpr fun hx => absurd h (by simpa using (mem_strip.mp hx).2)
  · next h =>
    rw [← isStripped_iff, Bool.not_eq_true] at h
    exact List.count_filter (by rw [h, Bool.not_false])

/-- Settles O33: the accepted inputs with what is handed over forgotten, and the filter that stripping is. -/
theorem decFrameSucceedsExactlyWhen : Obligations.DecFrameSucceedsExactlyWhen := by
  refine ⟨fun P raw => ⟨?accepted, ?accepts⟩, fun b => ⟨List.filter_sublist, fun _ => mem_strip,
    fun x => count_strip x b⟩⟩
  case accepted =>
    rintro ⟨v, h⟩
    obtain ⟨len, hd, hfit, hlen, hhex, heven, _⟩ := opDecFrame_eq_ok_iff.mp h
    exact ⟨by omega, len, hd, hfit, hlen, hhex, heven⟩
  case accepts =>
    rintro ⟨_, len, hd, hfit, hlen, hhex, heven⟩
    exact ⟨_, opDecFrame_eq_ok_iff.mpr ⟨len, hd, hfit, hlen, hhex, heven, rfl⟩⟩

/-! ### Bytes beyond the budget -/

theorem declaredLength_append {lowerOk : Bool} {raw : List Byte} {len : Nat}
    (h : declaredLength lowerOk raw = some len) (extra : List Byte) :
    declaredLength lowerOk (raw ++ extra) = some len := by
  obtain ⟨x, y, rest, rfl, _, _, _⟩ := declaredLength_eq_some h
  exact h

/-- The body reads no further than the declared `3L + 8` bytes (R57). -/
theorem decodeBody_append (P : Params) {raw : List Byte} {len : Nat} (h : 3 * len + 8 ≤ raw.length)
    (extra : List Byte) : decodeBody P (raw ++ extra) len = decodeBody P raw len := by
  cases hfit : bufferFits P (3 * len + 8) with
  | false => rw [decodeBody_of_unfit _ hfit, decodeBody_of_unfit _ hfit]
  | true =>
    have hlen : 3 * len + 8 ≤ (raw ++ extra).length := by
      rw [List.length_append]
      omega
    rw [decodeBody_of_full hfit hlen, decodeBody_of_full hfit h, List.take_append_of_le_length h]

/-- Settles O35: the header declares the same length, and the body reads that many bytes. -/
theorem decFrameReadsNothingBeyondItsBudget : Obligations.DecFrameReadsNothingBeyondItsBudget := by
  intro P raw extra len hd hlen
  have hlen' : 3 ≤ (raw ++ extra).length := by
    rw [List.length_append]
    omega
  rw [opDecFrame_body P _ len hlen' (declaredLength_append hd extra), opDecFrame_body P raw len (by omega) hd,
    decodeBody_append P hlen]

/-! ### What the decoder does not check -/

/-- Thirteen bytes "01 80 80 80 CR" of which eleven are consumed, with four pairs of digits among them (R63(b)). -/
theorem opDecFrame_surplus_pair :
    opDecFrame device [0x30, 0x31, 0x20, 0x38, 0x30, 0x20, 0x38, 0x30, 0x20, 0x38, 0x30, 0x20, 0x0D] =
      .ok (.payload [0x01, 0x80, 0x80, 0x80] 11) := by
  decide

/-- Settles O36: the layout of R35 decodes with any trailer, and the spec's own vector is evaluated. -/
theorem decFrameChecksNoTrailerAndNoCount : Obligations.DecFrameChecksNoTrailerAndNoCount := by
  refine ⟨fun c x s hc hfit => ?_, fun s _ => ?_⟩
  · rw [exec_decFrame, opDecFrame_responseChars hc hfit, conclude_ok]
  · rw [exec_decFrame, opDecFrame_surplus_pair, conclude_ok]

/-! ### Response frames -/

/-- A well-formed response frame is as long as its header declares (R36). -/
theorem wellFormed_responseFrame_iff {raw : List Byte} : WellFormed (.responseFrame raw) = true ↔
    ∃ len, declaredLength device.hexLowerOk raw = some len ∧ raw.length = 3 * len + 8 := by
  rw [WellFormed, fillsItsBudget]
  cases declaredLength device.hexLowerOk raw with
  | none => simp
  | some len => simp [total_eq]

/-- On a well-formed response frame within `MAX_BUF`, phases 3 and 4 decide on all of its bytes. -/
theorem opDecFrame_of_wellFormed {raw : List Byte} (hwf : WellFormed (.responseFrame raw) = true)
    (hfit : bufferFits device raw.length = true) :
    opDecFrame device raw = decodeConsumed device.hexLowerOk raw := by
  obtain ⟨len, hd, hlen⟩ := wellFormed_responseFrame_iff.mp hwf
  rw [hlen] at hfit
  rw [opDecFrame_of_full hd hfit hlen.ge, ← hlen, List.take_length]

/-- RESPONSE_FRAME does what DECFRAME does on the same bytes (log 4). -/
theorem exec_responseFrame (raw : List Byte) (s : State) :
    exec (.responseFrame raw) s = conclude s (opDecFrame device raw) := rfl

/-- Settles O37: all bytes are consumed, and the three outcomes are those of phases 3 and 4. -/
theorem responseFrameIsConsumedWhole : Obligations.ResponseFrameIsConsumedWhole := by
  refine ⟨fun raw s hwf hfit hhex heven => ⟨_, ?consumed, two_mul_hexPairs_length _ heven, rfl⟩,
    fun c x s hc hfit => ⟨?layout, ?decoded⟩,
    fun raw s hwf hfit => ⟨fun hnot => ?nonHex, fun hhex hodd => ?odd⟩, fun _ _ => rfl⟩
  case consumed =>
    rw [exec_responseFrame, opDecFrame_of_wellFormed hwf hfit, decodeConsumed_of_even hhex heven, conclude_ok]
  case layout =>
    exact wellFormed_responseFrame_iff.mpr ⟨_, declaredLength_responseChars _ hc x, responseChars_length c x⟩
  case decoded => rw [exec_responseFrame, opDecFrame_responseChars hc hfit, conclude_ok]
  case nonHex =>
    obtain ⟨offset, herr⟩ := decodeConsumed_of_nonHex hnot
    exact ⟨offset, by rw [exec_responseFrame, opDecFrame_of_wellFormed hwf hfit, herr, conclude_error]⟩
  case odd =>
    rw [exec_responseFrame, opDecFrame_of_wellFormed hwf hfit, decodeConsumed_of_odd hhex hodd, conclude_error]

/-- A capacity that holds some bytes holds fewer. -/
theorem bufferFits_of_le {P : Params} {m n : Nat} (h : bufferFits P n = true) (hle : m ≤ n) :
    bufferFits P m = true := by
  unfold bufferFits at *
  split
  · rfl
  · next cap hcap =>
    rw [hcap] at h
    exact decide_eq_true (hle.trans (of_decide_eq_true h))

/-- Settles O38: decoder, verifier and pairing each give back the bytes `[n] ++ C ++ [CHKSUM(C)]`. -/
theorem answeredFrameDecodesAndVerifies : Obligations.AnsweredFrameDecodesAndVerifies := fun P c hc hP hfit =>
  ⟨_, opDecFrame_responseChars hc hfit (chkSum c),
    opVerify_cons_concat_chkSum _ c hP (bufferFits_of_le hfit (by omega)), hexPairs_requestChars _ c⟩

end Sys2Proof.Machine
end

section
/-! The companion unit: VERIFY on a payload given by its parts, the trimmed length, and the fields, the errors and
the mutations of IDDECODE (44_identity_decoder.md R90 to R96). -/

namespace Sys2Proof.Machine

/-! ### Refusals -/

section
variable {P : Params} {least : Nat} {p : List Byte}

theorem companionRefusal_of_absent (h : P.hasIdent = false) : companionRefusal P least p = some .illegalOp := by
  simp [companionRefusal, h]

theorem companionRefusal_of_short (hP : P.hasIdent = true) (h : p.length < least) :
    companionRefusal P least p = some .payloadTooShort := by
  simp [companionRefusal, hP, h]

theorem companionRefusal_of_unfit (hP : P.hasIdent = true) (hlen : least ≤ p.length)
    (h : bufferFits P p.length = false) : companionRefusal P least p = some .bufferTooLong := by
  simp [companionRefusal, hP, Nat.not_lt.mpr hlen, h]

theorem opVerify_of_refused {r : RefusalReason} (h : companionRefusal P minVerifyPayload p = some r) :
    opVerify P p = .refused r := by
  rw [opVerify, h]

theorem opIdDecode_of_refused {r : RefusalReason} (h : companionRefusal P minIdentPayload p = some r) :
    opIdDecode P p = .refused r := by
  rw [opIdDecode, h]

end

theorem exec_verify (p : List Byte) (s : State) : exec (.verify p) s = conclude s (opVerify device p) := rfl

theorem exec_idDecode (p : List Byte) (s : State) : exec (.idDecode p) s = conclude s (opIdDecode device p) := rfl

/-- Settles O40: the length test comes right after the unit is found present. -/
theorem companionRefusesShortPayloads : Obligations.CompanionRefusesShortPayloads := by
  refine fun p s hP => ⟨fun h => ?verify, fun h => ?idDecode⟩
  case verify => rw [exec_verify, opVerify_of_refused (companionRefusal_of_short hP h), conclude_refused]
  case idDecode => rw [exec_idDecode, opIdDecode_of_refused (companionRefusal_of_short hP h), conclude_refused]

/-! ### The checksum of a payload given by its parts -/

/-- The checksum holds exactly if the trailer is the region's checksum, whatever the length byte (R90). -/
theorem checksumOk_cons_concat {x t : Byte} {c : List Byte} :
    checksumOk (x :: c ++ [t]) = true ↔ chkSum c = t := by
  rw [checksumOk, checkedRegion_cons_concat, trailer_cons_concat, beq_iff_eq]

/-- The checksum as a number: the sum of the bytes modulo 256. -/
theorem chkSum_eq_iff {c : List Byte} {t : Byte} : chkSum c = t ↔ (c.map BitVec.toNat).sum % 256 = t.toNat := by
  rw [chkSum_eq_sum, ← ofNat_sum_toNat, BitVec.toNat_eq, BitVec.toNat_ofNat]

/-- A payload of two bytes or more is a length byte, a region and a trailer. -/
theorem exists_eq_cons_concat {p : List Byte} (h : 2 ≤ p.length) : ∃ x c t, p = x :: c ++ [t] := by
  match p, h with
  | x :: q, h =>
    obtain rfl | ⟨c, t, rfl⟩ := List.eq_nil_or_concat' q
    · exact absurd h (Nat.not_succ_le_self 1)
    · exact ⟨x, c, t, rfl⟩

theorem opVerify_cons_concat_of_ne {P : Params} (x : Byte) {c : List Byte} {t : Byte} (hP : P.hasIdent = true)
    (hfit : bufferFits P (c.length + 2) = true) (h : chkSum c ≠ t) :
    opVerify P (x :: c ++ [t]) = .error (.checksum t (chkSum c)) := by
  have hlen : (x :: c ++ [t]).length = c.length + 2 := by simp
  have hrun : companionRefusal P minVerifyPayload (x :: c ++ [t]) = none :=
    (companionRefusal_none _ _ _).mpr ⟨hP, by simp [minVerifyPayload], by rwa [hlen]⟩
  rw [opVerify, hrun]
  simp only [checksumOk_cons_concat, h, if_false, checksumMismatch, checkedRegion_cons_concat, trailer_cons_concat]

/-- Settles O39: the region's checksum is its sum modulo 256. -/
theorem verifyComparesRegionWithTrailer : Obligations.VerifyComparesRegionWithTrailer := by
  refine fun len region x s hP hfit => ⟨fun h => ?equal, fun h => ?unequal⟩
  case equal =>
    obtain rfl := chkSum_eq_iff.mpr h
    rw [exec_verify, opVerify_cons_concat_chkSum len region hP hfit, conclude_ok]
  case unequal =>
    rw [exec_verify, opVerify_cons_concat_of_ne len hP hfit (mt chkSum_eq_iff.mp h), conclude_error, chkSum_eq_sum,
      ofNat_sum_toNat]

/-! ### The trimmed length -/

/-- The search of R93(b) ends at the trimmed length: the cut behind the last byte always serves. -/
theorem find?_cut_eq_trimLen (ws t : List Byte) :
    (List.range (t.length + 1)).find? (fun k => (t.drop k).all (fun c => ws.contains c)) = some (trimLen ws t) := by
  unfold trimLen
  cases h : (List.range (t.length + 1)).find? (fun k => (t.drop k).all (fun c => ws.contains c)) with
  | some k => rfl
  | none =>
    have hend := List.find?_range_eq_none.mp h t.length (Nat.lt_succ_self _)
    rw [List.drop_length] at hend
    cases hend

theorem trimLen_le_length (ws t : List Byte) : trimLen ws t ≤ t.length := by
  obtain ⟨_, hrange, _⟩ := List.find?_range_eq_some.mp (find?_cut_eq_trimLen ws t)
  exact Nat.le_of_lt_succ (List.mem_range.mp hrange)

/-- Settles O42: what a search upwards finds, and what it has passed over. -/
theorem trimLenIsTheLeastCut : Obligations.TrimLenIsTheLeastCut := by
  intro ws t
  obtain ⟨hcut, _, hleast⟩ := List.find?_range_eq_some.mp (find?_cut_eq_trimLen ws t)
  refine ⟨trimLen_le_length ws t, by simpa using hcut, fun k hk => ?_⟩
  by_contra hlt
  have hnot := hleast k (Nat.lt_of_not_le hlt)
  simp only [Bool.not_eq_true', List.all_eq_false, List.contains_iff_mem] at hnot
  obtain ⟨c, hc, hws⟩ := hnot
  exact hws (hk c hc)

/-! ### IDDECODE on a payload that is not refused -/

section
variable {P : Params} {p : List Byte} (hP : P.hasIdent = true) (hlen : 17 ≤ p.length)
  (hfit : bufferFits P p.length = true)
include hP hlen hfit

theorem opIdDecode_of_mismatch (hchk : checksumOk p = false) : opIdDecode P p = checksumMismatch p := by
  rw [opIdDecode, (companionRefusal_none P minIdentPayload p).mpr ⟨hP, hlen, hfit⟩]
  simp only [hchk, Bool.not_false, if_true]

theorem opIdDecode_of_not_text (hchk : checksumOk p = true) (htext : P.textValid (serialField p) = false) :
    opIdDecode P p = .error .encoding := by
  rw [opIdDecode, (companionRefusal_none P minIdentPayload p).mpr ⟨hP, hlen, hfit⟩]
  simp only [hchk, htext, Bool.not_true, Bool.not_false, Bool.false_eq_true, if_false, if_true]

theorem opIdDecode_of_text (hchk : checksumOk p = true) (htext : P.textValid (serialField p) = true) :
    opIdDecode P p = .ok (.record (identityRecord P.whitespace p)) := by
  rw [opIdDecode, (companionRefusal_none P minIdentPayload p).mpr ⟨hP, hlen, hfit⟩]
  simp only [hchk, htext, Bool.not_true, Bool.false_eq_true, if_false]

end

section
variable {p : List Byte} (hP : device.hasIdent = true) (hlen : 17 ≤ p.length)
  (hfit : bufferFits device p.length = true)
include hP hlen hfit

theorem exec_idDecode_of_mismatch (hchk : checksumOk p = false) (s : State) :
    exec (.idDecode p) s = .next (s.reports (.checksum (trailer p) (chkSum (checkedRegion p)))) := by
  rw [exec_idDecode, opIdDecode_of_mismatch hP hlen hfit hchk, checksumMismatch, conclude_error]

theorem exec_idDecode_of_text (hchk : checksumOk p = true) (htext : device.textValid (serialField p) = true)
    (s : State) : exec (.idDecode p) s = .next (s.answers (.record (identityRecord device.whitespace p))) := by
  rw [exec_idDecode, opIdDecode_of_text hP hlen hfit hchk htext, conclude_ok]

end

/-- Settles O44: the checksum is tested before the text. -/
theorem idDecodeErrorsInOrder : Obligations.IdDecodeErrorsInOrder := by
  refine fun p s hP hlen hfit => ⟨fun hchk htext => ?_,
    fun hchk => ⟨_, _, exec_idDecode_of_mismatch hP hlen hfit hchk s⟩⟩
  rw [exec_idDecode, opIdDecode_of_not_text hP hlen hfit hchk htext, conclude_error]

/-! ### The fields of the record -/

theorem getElem?_eq_some_byteAt {p : List Byte} {i : Nat} (h : i < p.length) : p[i]? = some (byteAt p i) := by
  rw [byteAt, List.getD_eq_getElem p 0 h, List.getElem?_eq_getElem h]

theorem toNat_eq_nibbles (b : Byte) : b.toNat = 16 * (highNibble b).toNat + (lowNibble b).toNat := by
  rw [highNibble_toNat, lowNibble_toNat, Nat.div_add_mod]

theorem serialField_length {p : List Byte} (h : 17 ≤ p.length) : (serialField p).length = 9 := by
  rw [serialField, slice, List.length_drop, List.length_take]
  omega

theorem getElem?_serialField (p : List Byte) {k : Nat} (h : k < 9) : (serialField p)[k]? = p[5 + k]? := by
  rw [serialField, slice, List.getElem?_drop, List.getElem?_take_of_lt (by omega)]

/-- Settles O41: every field is read from its own offset, which a payload of 17 bytes has. -/
theorem idDecodeExtractsTheFields : Obligations.IdDecodeExtractsTheFields := by
  intro p s hP hlen hfit hchk htext
  have hbyte {i : Nat} (hi : i < 17) : some (byteAt p i) = p[i]? := (getElem?_eq_some_byteAt (by omega)).symm
  refine ⟨_, exec_idDecode_of_text hP hlen hfit hchk htext s, hbyte (by decide), ?_, hbyte (by decide),
    serialField_length hlen, fun _ => getElem?_serialField p, rfl, hbyte (by decide), hbyte (by decide), rfl,
    hbyte (by decide)⟩
  rw [← hbyte (by decide), Option.map_some, toNat_eq_nibbles]
  rfl

/-- The codes without a product (R94). -/
theorem productType_eq_unknown_iff (c : Byte) : productType c = .unknown ↔ c = 0 ∨ 8 ≤ c := by
  revert c
  decide

/-- Settles O43: the table by evaluation, and the record of O41's outcome at offset 15. -/
theorem productCodesAreTheTable : Obligations.ProductCodesAreTheTable := by
  refine ⟨⟨rfl, rfl, rfl, rfl, rfl, rfl, rfl⟩, productType_eq_unknown_iff, fun p s hP hlen hfit hchk htext =>
    ⟨_, exec_idDecode_of_text hP hlen hfit hchk htext s, rfl⟩⟩

/-! ### Mutations -/

/-- Changing one byte changes the checksum. -/
theorem chkSum_set_ne {b : List Byte} {i : Nat} {x : Byte} (hi : i < b.length) (hx : x ≠ byteAt b i) :
    chkSum (b.set i x) ≠ chkSum b := by
  have hadd := chkSum_set_add hi (x - byteAt b i)
  rw [add_sub_cancel] at hadd
  rw [hadd]
  exact fun h => hx (sub_eq_zero.mp (add_eq_left.mp h))

/-- Changing one byte of the region or the trailer breaks a checksum that holds (R47(e)). -/
theorem checksumOk_set {p : List Byte} {k : Nat} {x : Byte} (hchk : checksumOk p = true) (hk1 : 1 ≤ k)
    (hk : k < p.length) (hx : x ≠ byteAt p k) : checksumOk (p.set k x) = false := by
  obtain ⟨y, c, t, rfl⟩ := exists_eq_cons_concat (p := p) (by omega)
  obtain ⟨k, rfl⟩ := Nat.exists_eq_add_of_le' hk1
  obtain rfl := checksumOk_cons_concat.mp hchk
  have hbyte : byteAt (y :: c ++ [chkSum c]) (k + 1) = byteAt (c ++ [chkSum c]) k := rfl
  rw [hbyte] at hx
  rw [List.cons_append, List.set_cons_succ, ← Bool.not_eq_true]
  rcases Nat.lt_or_ge k c.length with hregion | hend
  · rw [byteAt_append_left hregion] at hx
    rw [List.set_append_left _ _ hregion]
    exact mt checksumOk_cons_concat.mp (chkSum_set_ne hregion hx)
  · obtain rfl : k = c.length := by
      rw [List.length_append, List.length_cons, List.length_singleton] at hk
      omega
    have hlast : byteAt (c ++ [chkSum c]) c.length = chkSum c := byteAt_append_right c [chkSum c] 0
    rw [hlast] at hx
    rw [List.set_append_right _ _ le_rfl, Nat.sub_self]
    exact mt checksumOk_cons_concat.mp hx.symm

/-- The length byte stands outside the checksummed region (R90). -/
theorem checksumOk_set_zero {p : List Byte} (h : 2 ≤ p.length) (x : Byte) :
    checksumOk (p.set 0 x) = checksumOk p := by
  obtain ⟨y, c, t, rfl⟩ := exists_eq_cons_concat h
  rw [List.cons_append, List.set_cons_zero, Bool.eq_iff_iff]
  exact checksumOk_cons_concat.trans checksumOk_cons_concat.symm

/-- No field of the record is read from the length byte (R92). -/
theorem identityRecord_set_zero (ws p : List Byte) (x : Byte) :
    identityRecord ws (p.set 0 x) = identityRecord ws p := by
  cases p <;> rfl

theorem serialField_set_zero (p : List Byte) (x : Byte) : serialField (p.set 0 x) = serialField p := by
  cases p <;> rfl

/-- The outcome of IDDECODE does not depend on the length byte, where a record would be read at all. -/
theorem opIdDecode_set_zero {P : Params} {p : List Byte} (hP : P.hasIdent = true) (hlen : 17 ≤ p.length)
    (hfit : bufferFits P p.length = true) (hchk : checksumOk p = true) (x : Byte) :
    opIdDecode P (p.set 0 x) = opIdDecode P p := by
  have hlen' : (p.set 0 x).length = p.length := List.length_set
  have hchk' : checksumOk (p.set 0 x) = true := (checksumOk_set_zero (by omega) x).trans hchk
  have hfield := serialField_set_zero p x
  cases htext : P.textValid (serialField p) with
  | true =>
    rw [opIdDecode_of_text hP hlen hfit hchk htext,
      opIdDecode_of_text hP (by rwa [hlen']) (by rwa [hlen']) hchk' (by rwa [hfield]), identityRecord_set_zero]
  | false =>
    rw [opIdDecode_of_not_text hP hlen hfit hchk htext,
      opIdDecode_of_not_text hP (by rwa [hlen']) (by rwa [hlen']) hchk' (by rwa [hfield])]

/-- Settles O45: a change of one byte moves either the region's checksum or the trailer, and the length byte is
neither read nor summed. -/
theorem singleByteMutationIsDetected : Obligations.SingleByteMutationIsDetected := by
  refine fun p k x s hP hlen hfit hchk => ⟨fun hk1 hk hx => ?detected, ?lengthByte⟩
  case detected =>
    have hlen' : (p.set k x).length = p.length := List.length_set
    exact ⟨_, _, exec_idDecode_of_mismatch hP (by rwa [hlen']) (by rwa [hlen']) (checksumOk_set hchk hk1 hk hx) s⟩
  case lengthByte => rw [exec_idDecode, exec_idDecode, opIdDecode_set_zero hP hlen hfit hchk]

end Sys2Proof.Machine
end

section
/-! Key derivation under every key table (43_cipher.md R70 to R72, R82). -/

namespace Sys2Proof.Machine

/-! ### The bytes of the derived key -/

/-- Byte `j` of a word put together from four (R7). -/
theorem extractLsb'_wordOfBytes (b : Fin 4 → Byte) (j : Fin 4) :
    (wordOfBytes (b 0) (b 1) (b 2) (b 3)).extractLsb' (8 * j.val) 8 = b j := by
  have hbytes := bytesLe_wordOfBytes (b 0) (b 1) (b 2) (b 3)
  simp only [bytesLe, List.cons.injEq, and_true] at hbytes
  obtain ⟨h0, h1, h2, h3⟩ := hbytes
  match j with
  | 0 => exact h0
  | 1 => exact h1
  | 2 => exact h2
  | 3 => exact h3

theorem word_deriveKey (m : KeyMap) (p : List Byte) (i : Fin 4) :
    (deriveKey m p).word i.val = deriveWord m p i := by
  match i with
  | 0 | 1 | 2 | 3 => rfl

/-- Byte `j` of key word `i` is what the table names for that place (R70, R71). -/
theorem extractLsb'_word_deriveKey (m : KeyMap) (p : List Byte) (i j : Fin 4) :
    ((deriveKey m p).word i.val).extractLsb' (8 * j.val) 8 = keyByte p (m i j) := by
  rw [word_deriveKey]
  exact extractLsb'_wordOfBytes (fun j => keyByte p (m i j)) j

/-- An offset that the table may name lies within the least payload (K1 of R72). -/
theorem keyOffset_pos_lt (o : KeyOffset) : o.pos < 32 := by
  have hrange := o.inRange
  omega

/-! ### KEYDERIVE -/

section
variable {P : Params} {p : List Byte}

theorem runKeyDerive_of_refused {r : RefusalReason} (h : keyDeriveRefusal P p = some r) (s : State) :
    runKeyDerive P p s = s.refuse r := by
  rw [runKeyDerive, h]

theorem runKeyDerive_of_accepted (h : keyDeriveRefusal P p = none) (s : State) :
    runKeyDerive P p s = (s.writeKey (deriveKey P.keymap p)).finishOk .nothing := by
  rw [runKeyDerive, h]

theorem keyDeriveRefusal_of_short (h : p.length < 32) : keyDeriveRefusal P p = some .payloadTooShort := if_pos h

end

theorem exec_keyDerive (p : List Byte) (s : State) : exec (.keyDerive p) s = .next (runKeyDerive device p s) := rfl

theorem exec_keyDerive_of_accepted {p : List Byte} (hlen : 32 ≤ p.length)
    (hfit : bufferFits device p.length = true) (s : State) :
    exec (.keyDerive p) s =
      .next { s with key := deriveKey device.keymap p, keyValid := true, response := some (.ok .nothing) } := by
  rw [exec_keyDerive, runKeyDerive_of_accepted ((keyDeriveRefusal_none _ _).mpr ⟨hlen, hfit⟩)]
  rfl

/-- Settles O46: the key written is the derived one, and every place of it holds what the table names. -/
theorem keyDeriveAssemblesTheKey : Obligations.KeyDeriveAssemblesTheKey := by
  refine fun p s hlen hfit => ⟨_, exec_keyDerive_of_accepted hlen hfit s,
    fun i j => ⟨fun c hc => ?_, fun o ho => ?_⟩⟩
  · rw [extractLsb'_word_deriveKey, hc, keyByte]
  · rw [extractLsb'_word_deriveKey, ho, keyByte, getElem?_eq_some_byteAt ((keyOffset_pos_lt o).trans_le hlen)]

/-- Settles O47: the length test comes first, and a refusal writes the response and the mark alone. -/
theorem keyDeriveRefusesShortPayloads : Obligations.KeyDeriveRefusesShortPayloads := by
  intro p s h
  rw [exec_keyDerive, runKeyDerive_of_refused (keyDeriveRefusal_of_short h), declines_eq]

/-! ### What the key depends on -/

/-- Settles O48: a place of the table is a constant or one of the named offsets. -/
theorem keyDependsOnNamedOffsetsOnly : Obligations.KeyDependsOnNamedOffsetsOnly := by
  intro m p p' h
  have hbyte (src : KeySource) : keyByte p src = keyByte p' src := by
    cases src with
    | const c => rfl
    | off o => exact h o.pos o.inRange
  simp only [deriveKey, deriveWord, hbyte]

/-- The three constants of K2 stand in three different words of the key. -/
theorem exists_constants_in_deriveKey {m : KeyMap} (h : m.constantsInThreeWords) (p : List Byte) :
    ∃ a b c : Fin 4, (a ≠ b ∧ b ≠ c ∧ a ≠ c) ∧
      (∃ j : Fin 4, ((deriveKey m p).word a.val).extractLsb' (8 * j.val) 8 = 78) ∧
      (∃ j : Fin 4, ((deriveKey m p).word b.val).extractLsb' (8 * j.val) 8 = 117) ∧
      (∃ j : Fin 4, ((deriveKey m p).word c.val).extractLsb' (8 * j.val) 8 = 126) := by
  have hplace {i j : Fin 4} {x : Byte} (hx : m i j = .const x) :
      ((deriveKey m p).word i.val).extractLsb' (8 * j.val) 8 = x := by
    rw [extractLsb'_word_deriveKey, hx, keyByte]
  obtain ⟨a, b, c, hne, ⟨ja, ha⟩, ⟨jb, hb⟩, ⟨jc, hc⟩⟩ := h
  exact ⟨a, b, c, hne, ⟨ja, hplace ha⟩, ⟨jb, hplace hb⟩, ⟨jc, hplace hc⟩⟩

/-- The device's table meets K2, as its type says (log 6). -/
theorem device_constantsInThreeWords : device.keymap.constantsInThreeWords :=
  (@Config.keymap ⟨exampleKeyMap⟩).constants

/-- Settles O49: a constant stands in the key where it stands in the table, and the device's table carries its
constraints. -/
theorem keyHoldsTheThreeConstants : Obligations.KeyHoldsTheThreeConstants :=
  ⟨fun _ p h => exists_constants_in_deriveKey h p,
    ⟨device_constantsInThreeWords, (@Config.keymap ⟨exampleKeyMap⟩).reuses,
      (@Config.keymap ⟨exampleKeyMap⟩).unordered⟩,
    fun p s hlen hfit => ⟨_, exec_keyDerive_of_accepted hlen hfit s,
      exists_constants_in_deriveKey device_constantsInThreeWords p⟩⟩

end Sys2Proof.Machine
end

section
/-! The rounds written out, and the stream operations block by block, while a key is valid (43_cipher.md R73 to R75,
R79, R80). -/

namespace Sys2Proof.Machine

/-! ### The mixing term without bit operations -/

theorem mixF_eq (x : Word) :
    mixF x = (BitVec.ofNat 32 (x.toNat * 16) ^^^ BitVec.ofNat 32 (x.toNat / 32)) + x := by
  have hleft : x <<< 4 = BitVec.ofNat 32 (x.toNat * 16) := by
    rw [BitVec.toNat_eq, BitVec.toNat_shiftLeft, BitVec.toNat_ofNat, Nat.shiftLeft_eq]
  have hright : x >>> 5 = BitVec.ofNat 32 (x.toNat / 32) := by
    rw [BitVec.toNat_eq, BitVec.toNat_ushiftRight, BitVec.toNat_ofNat, Nat.shiftRight_eq_div_pow]
    have hx := x.isLt
    omega
  rw [mixF, hleft, hright]

theorem mix_eq_mixTerm (c : Combine) (k : Key) (x sum : Word) (i : Nat) : mix c k x sum i = mixTerm c k x sum i := by
  rw [mix, mixTerm, mixF_eq]

/-- The two lowest bits of an accumulator, as a number. -/
theorem toNat_and_three (w : Word) : (w &&& 3).toNat = w.toNat % 4 := by
  rw [BitVec.toNat_and]
  exact Nat.and_two_pow_sub_one_eq_mod w.toNat 2

theorem firstIndex_eq (sum : Word) : firstIndex sum = lowIndex sum.toNat := toNat_and_three sum

theorem secondIndex_eq (sum : Word) : secondIndex sum = highIndex sum.toNat := by
  rw [secondIndex, toNat_and_three, BitVec.toNat_ushiftRight, Nat.shiftRight_eq_div_pow]
  rfl

/-! ### Encryption, round by round -/

/-- The lanes after `r` rounds of a block encryption (R74). -/
def encLanes (c : Combine) (k : Key) (v0 v1 : Word) (r : Nat) : Lanes :=
  (encRound c k)^[r] { v0 := v0, v1 := v1, sum := 0 }

theorem encLanes_sum (c : Combine) (k : Key) (v0 v1 : Word) (r : Nat) :
    (encLanes c k v0 v1 r).sum = roundSum r := encRound_iterate_sum c k v0 v1 r

theorem encLanes_succ (c : Combine) (k : Key) (v0 v1 : Word) (r : Nat) :
    encLanes c k v0 v1 (r + 1) = encRound c k (encLanes c k v0 v1 r) := Function.iterate_succ_apply' _ _ _

/-- The first half of round `r`, at the accumulator before its advance. -/
theorem encLanes_succ_v0 (c : Combine) (k : Key) (v0 v1 : Word) (r : Nat) :
    (encLanes c k v0 v1 (r + 1)).v0 = (encLanes c k v0 v1 r).v0 +
      mixTerm c k (encLanes c k v0 v1 r).v1 (roundSum r) (lowIndex (roundSum r).toNat) := by
  rw [encLanes_succ, encRound, ← encLanes_sum c k v0 v1 r, ← mix_eq_mixTerm, ← firstIndex_eq]

/-- The second half of round `r`, at the accumulator after its advance. -/
theorem encLanes_succ_v1 (c : Combine) (k : Key) (v0 v1 : Word) (r : Nat) :
    (encLanes c k v0 v1 (r + 1)).v1 = (encLanes c k v0 v1 r).v1 +
      mixTerm c k (encLanes c k v0 v1 (r + 1)).v0 (roundSum (r + 1)) (highIndex (roundSum (r + 1)).toNat) := by
  rw [encLanes_succ, encRound, roundSum_succ, ← encLanes_sum c k v0 v1 r, ← mix_eq_mixTerm, ← secondIndex_eq]

theorem opEncBlk_of_valid (P : Params) {s : State} (h : s.keyValid = true) (v0 v1 : Word) :
    opEncBlk P s v0 v1 =
      .ok (.words (encBlock P.combine s.key v0 v1).1 (encBlock P.combine s.key v0 v1).2) := if_pos h

/-- Settles O50: the two lanes after each number of rounds are the sequences. -/
theorem encBlkRunsSixteenRounds : Obligations.EncBlkRunsSixteenRounds := by
  intro v0 v1 s h
  refine ⟨fun r => (encLanes device.combine s.key v0 v1 r).v0, fun r => (encLanes device.combine s.key v0 v1 r).v1,
    rfl, rfl, fun r _ => ⟨encLanes_succ_v0 _ _ v0 v1 r, encLanes_succ_v1 _ _ v0 v1 r⟩, ?_⟩
  rw [exec_encBlk, opEncBlk_of_valid device h, conclude_ok]
  rfl

/-! ### Decryption, round by round -/

/-- The lanes of a block decryption with `r` rounds still to undo (R75). -/
def decLanes (c : Combine) (k : Key) (v0 v1 : Word) (r : Nat) : Lanes :=
  (decRound c k)^[rounds - r] { v0 := v0, v1 := v1, sum := decSumInit }

theorem decLanes_sum (c : Combine) (k : Key) (v0 v1 : Word) {r : Nat} (h : r ≤ rounds) :
    (decLanes c k v0 v1 r).sum = roundSum r := by
  rw [decLanes, decRound_iterate_sum c k v0 v1 (Nat.sub_le rounds r), Nat.sub_sub_self h]

theorem decLanes_eq_decRound (c : Combine) (k : Key) (v0 v1 : Word) {r : Nat} (h : r < rounds) :
    decLanes c k v0 v1 r = decRound c k (decLanes c k v0 v1 (r + 1)) := by
  have hcount : rounds - r = rounds - (r + 1) + 1 := by omega
  rw [decLanes, hcount, Function.iterate_succ_apply', decLanes]

/-- Undoing the second half of round `r`, at the accumulator after its advance. -/
theorem decLanes_v1 (c : Combine) (k : Key) (v0 v1 : Word) {r : Nat} (h : r < rounds) :
    (decLanes c k v0 v1 r).v1 = (decLanes c k v0 v1 (r + 1)).v1 -
      mixTerm c k (decLanes c k v0 v1 (r + 1)).v0 (roundSum (r + 1)) (highIndex (roundSum (r + 1)).toNat) := by
  rw [decLanes_eq_decRound c k v0 v1 h, decRound, ← decLanes_sum c k v0 v1 h, ← mix_eq_mixTerm, ← secondIndex_eq]

/-- Undoing the first half of round `r`, at the accumulator before its advance. -/
theorem decLanes_v0 (c : Combine) (k : Key) (v0 v1 : Word) {r : Nat} (h : r < rounds) :
    (decLanes c k v0 v1 r).v0 = (decLanes c k v0 v1 (r + 1)).v0 -
      mixTerm c k (decLanes c k v0 v1 r).v1 (roundSum r) (lowIndex (roundSum r).toNat) := by
  have hback : roundSum r = (decLanes c k v0 v1 (r + 1)).sum - delta := by
    rw [decLanes_sum c k v0 v1 h, roundSum_succ, add_sub_cancel_right]
  rw [decLanes_eq_decRound c k v0 v1 h, decRound, hback, ← mix_eq_mixTerm, ← firstIndex_eq]

theorem opDecBlk_of_valid (P : Params) {s : State} (h : s.keyValid = true) (v0 v1 : Word) :
    opDecBlk P s v0 v1 =
      .ok (.words (decBlock P.combine s.key v0 v1).1 (decBlock P.combine s.key v0 v1).2) := if_pos h

/-- Settles O51: the two lanes with each number of rounds still to undo are the sequences. -/
theorem decBlkRunsTheRoundsBackwards : Obligations.DecBlkRunsTheRoundsBackwards := by
  intro v0 v1 s h
  refine ⟨fun r => (decLanes device.combine s.key v0 v1 r).v0, fun r => (decLanes device.combine s.key v0 v1 r).v1,
    rfl, rfl, fun r hr => ⟨decLanes_v1 _ _ v0 v1 hr, decLanes_v0 _ _ v0 v1 hr⟩, ?_⟩
  rw [exec_decBlk, opDecBlk_of_valid device h, conclude_ok]
  rfl

/-! ### The stream operations, block by block -/

/-- The two words of block `i`, in bytes made of pairs of words. -/
theorem words_flatMap_blockOut {ws : List (Word × Word)} {i : Nat} (h : i < ws.length) :
    (le32 (ws.flatMap blockOut) (8 * i), le32 (ws.flatMap blockOut) (8 * i + 4)) = ws[i] := by
  induction ws generalizing i with
  | nil => exact absurd h (Nat.not_lt_zero i)
  | cons w ws ih =>
    cases i with
    | zero => rw [List.flatMap_cons, le32_blockOut_append_zero, le32_blockOut_append_four]; rfl
    | succ i =>
      have hnext : 8 * (i + 1) = (blockOut w).length + 8 * i := by
        rw [blockOut_length]
        omega
      rw [List.flatMap_cons, hnext, Nat.add_assoc, le32_append_right, le32_append_right, List.getElem_cons_succ]
      exact ih (Nat.lt_of_succ_lt_succ h)

/-- Each block of the stream is transformed on its own (R79). -/
theorem words_streamBlocks (blk : Word → Word → Word × Word) {q : List Byte} {i : Nat} (hq : q.length % 32 = 0)
    (hi : 8 * i < q.length) : (le32 (streamBlocks blk q) (8 * i), le32 (streamBlocks blk q) (8 * i + 4)) =
      blk (le32 q (8 * i)) (le32 q (8 * i + 4)) := by
  obtain ⟨ws, rfl⟩ := exists_blocks_of_aligned hq
  rw [flatMap_blockOut_length] at hi
  have hws : i < ws.length := by omega
  rw [streamBlocks_flatMap_blockOut, words_flatMap_blockOut (by rwa [List.length_map]), List.getElem_map,
    ← words_flatMap_blockOut hws]
  rfl

section
variable {P : Params} {s : State} {b : List Byte} (hkey : s.keyValid = true)
include hkey

theorem opEncStr_of_valid (hfit : bufferFits P (pad b).length = true) :
    opEncStr P s b = .ok (.buffer (encStream P.combine s.key b)) := by
  simp [opEncStr, hkey, hfit]

theorem opDecStr_of_valid (hfit : bufferFits P (pad b).length = true) :
    opDecStr P s b = .ok (.buffer (decStream P.combine s.key b)) := by
  simp [opDecStr, hkey, hfit]

theorem opEncStr_of_unfit (hfit : bufferFits P (pad b).length = false) :
    opEncStr P s b = .refused .bufferTooLong := by
  simp [opEncStr, hkey, hfit]

theorem opDecStr_of_unfit (hfit : bufferFits P (pad b).length = false) :
    opDecStr P s b = .refused .bufferTooLong := by
  simp [opDecStr, hkey, hfit]

end

/-- Settles O55: the padded input is a whole number of blocks, each encrypted on its own. -/
theorem encStrEncryptsBlockByBlock : Obligations.EncStrEncryptsBlockByBlock := by
  intro b s hkey hfit
  refine ⟨_, ?_, encStream_length device.combine s.key b, fun _ => words_streamBlocks _ (pad_length_mod b)⟩
  rw [exec_encStr, opEncStr_of_valid hkey hfit, conclude_ok]

/-- Settles O56: likewise with the inverse block. -/
theorem decStrDecryptsBlockByBlock : Obligations.DecStrDecryptsBlockByBlock := by
  intro b s hkey hfit
  refine ⟨_, ?_, decStream_length device.combine s.key b, fun _ => words_streamBlocks _ (pad_length_mod b)⟩
  rw [exec_decStr, opDecStr_of_valid hkey hfit, conclude_ok]

end Sys2Proof.Machine
end

section
/-! What an instruction's end depends on, and which kinds of outcome each operation has (10_state.md R13 to R18,
60_exceptions.md R100 to R106). -/

namespace Sys2Proof.Machine

/-! ### What the outcome of an instruction depends on -/

/-- A state that holds the given architectural state (R10) and is as after reset otherwise. -/
def KeyState.held (k : KeyState) : State := { State.reset with key := k.key, keyValid := k.valid }

/-- The cipher operations read no more of the state than key and valid bit (R11, R17). -/
theorem exec_encBlk_held (v0 v1 : Word) (s : State) :
    exec (.encBlk v0 v1) s = conclude s (opEncBlk device s.keyState.held v0 v1) := rfl
theorem exec_decBlk_held (v0 v1 : Word) (s : State) :
    exec (.decBlk v0 v1) s = conclude s (opDecBlk device s.keyState.held v0 v1) := rfl
theorem exec_encStr_held (b : List Byte) (s : State) :
    exec (.encStr b) s = conclude s (opEncStr device s.keyState.held b) := rfl
theorem exec_decStr_held (b : List Byte) (s : State) :
    exec (.decStr b) s = conclude s (opDecStr device s.keyState.held b) := rfl

/-- An instruction that reads no key and is not KEYDERIVE ends with an outcome that its operands alone fix (R13). -/
theorem exec_of_not_readsKey {i : Instr} (h : readsKey i = false) :
    (∃ o, ∀ s, exec i s = conclude s o) ∨ ∃ p, i = .keyDerive p := by
  cases i with
  | keyDerive p => exact .inr ⟨p, rfl⟩
  | encBlk | decBlk | encStr | decStr => cases h
  | _ => exact .inl ⟨_, fun _ => rfl⟩

/-- Every instruction but KEYDERIVE ends with an outcome that its operands, the key and the valid bit fix (R17). -/
theorem exec_of_keyState (i : Instr) :
    (∃ f : KeyState → OpOutcome, ∀ s, exec i s = conclude s (f s.keyState)) ∨ ∃ p, i = .keyDerive p := by
  cases i with
  | encBlk v0 v1 => exact .inl ⟨fun k => opEncBlk device k.held v0 v1, exec_encBlk_held v0 v1⟩
  | decBlk v0 v1 => exact .inl ⟨fun k => opDecBlk device k.held v0 v1, exec_decBlk_held v0 v1⟩
  | encStr b => exact .inl ⟨fun k => opEncStr device k.held b, exec_encStr_held b⟩
  | decStr b => exact .inl ⟨fun k => opDecStr device k.held b, exec_decStr_held b⟩
  | keyDerive p => exact .inr ⟨p, rfl⟩
  | _ => exact .inl ⟨fun _ => _, fun _ => rfl⟩

/-- KEYDERIVE's outcome, refused or not, is fixed by its payload (R71, R82). -/
theorem exec_keyDerive_response {p : List Byte} {s s' t t' : State} (h : exec (.keyDerive p) s = .next t)
    (h' : exec (.keyDerive p) s' = .next t') : t.response = t'.response := by
  rcases exec_keyDerive_cases h with ⟨r, hr, hresp, _⟩ | ⟨hr, hresp, _⟩ <;>
  rcases exec_keyDerive_cases h' with ⟨r', hr', hresp', _⟩ | ⟨hr', hresp', _⟩
  · rw [hresp, hresp', Option.some.inj (hr.symm.trans hr')]
  · cases hr.symm.trans hr'
  · cases hr.symm.trans hr'
  · rw [hresp, hresp']

/-- Settles O14: without KEYDERIVE the outcome is one and the same, and KEYDERIVE's is fixed by its payload. -/
theorem keyHasNoReadOutPath : Obligations.KeyHasNoReadOutPath := by
  intro i s s' t t' hreads h h'
  rcases exec_of_not_readsKey hreads with ⟨o, ho⟩ | ⟨p, rfl⟩
  · rw [ho] at h h'
    rw [conclude_next h, conclude_next h', conclude_response, conclude_response]
  · exact exec_keyDerive_response h h'

/-- Settles O13: from equal architectural states the outcome is equal, and an outcome alone writes none; KEYDERIVE
keeps it or overwrites all of it, as its payload says. -/
theorem outcomeDependsOnOperandsAndKeyOnly : Obligations.OutcomeDependsOnOperandsAndKeyOnly := by
  intro i s s' t t' hkey h h'
  rcases exec_of_keyState i with ⟨f, hf⟩ | ⟨p, rfl⟩
  · rw [hf] at h h'
    rw [conclude_next h, conclude_next h', conclude_response, conclude_response, conclude_keyState,
      conclude_keyState, hkey]
    exact ⟨rfl, rfl⟩
  · refine ⟨exec_keyDerive_response h h', ?_⟩
    rcases exec_keyDerive_cases h with ⟨r, hr, _, hkept⟩ | ⟨hr, _, hwritten⟩
    · rcases exec_keyDerive_cases h' with ⟨_, _, _, hkept'⟩ | ⟨hr', _, _⟩
      · rw [hkept, hkept', hkey]
      · cases hr.symm.trans hr'
    · rw [hwritten, keyDerive_keyState h' hr]

/-! ### Doing it again -/

/-- Delivering an outcome a second time changes nothing. -/
theorem conclude_conclude (s : State) (o : OpOutcome) : (s.conclude o).conclude o = s.conclude o := by
  cases o <;> rfl

theorem runKeyDerive_runKeyDerive (P : Params) (p : List Byte) (s : State) :
    runKeyDerive P p (runKeyDerive P p s) = runKeyDerive P p s := by
  cases h : keyDeriveRefusal P p with
  | some r => simp only [runKeyDerive_of_refused h]; rfl
  | none => simp only [runKeyDerive_of_accepted h]; rfl

/-- Settles O12: the architectural state that fixed the outcome is still there, and KEYDERIVE writes the same key. -/
theorem operationsAreIdempotent : Obligations.OperationsAreIdempotent := by
  intro i s t h
  rcases exec_of_keyState i with ⟨f, hf⟩ | ⟨p, rfl⟩
  · rw [hf] at h
    rw [conclude_next h, hf, conclude_keyState, conclude, conclude_conclude]
  · obtain rfl : runKeyDerive device p s = t := Host.Outcome.next.inj h
    rw [exec_keyDerive, runKeyDerive_runKeyDerive]

/-! ### The end of an instruction -/

/-- Settles O8: the end with an outcome delivers it and marks a refusal; KEYDERIVE ends with OK or a refusal. -/
theorem everyOperationDeliversOneOutcome : Obligations.EveryOperationDeliversOneOutcome := by
  intro i s
  rcases exec_cases i s with ⟨o, ho⟩ | ⟨p, rfl, hrun⟩
  · exact ⟨_, o, ho, conclude_response s o, conclude_program s o, conclude_refusedMark s o⟩
  · rcases runKeyDerive_cases device p s with ⟨r, _, hend⟩ | ⟨_, hend⟩ <;> rw [hend] at hrun
    · exact ⟨_, .refused r, hrun, rfl, rfl, (Bool.or_true _).symm⟩
    · exact ⟨_, .ok .nothing, hrun, rfl, rfl, (Bool.or_false _).symm⟩

/-- What O8 says of a given next state. -/
theorem exec_frame {i : Instr} {s t : State} (h : exec i s = .next t) :
    t.program = s.program ∧ (s.refusedMark = true → t.refusedMark = true) := by
  obtain ⟨t', o, h', _, hprogram, hmark⟩ := everyOperationDeliversOneOutcome i s
  obtain rfl : t' = t := Host.Outcome.next.inj (h'.symm.trans h)
  exact ⟨hprogram, fun hs => by rw [hmark, hs, Bool.true_or]⟩

/-! ### Which operations raise errors -/

/-- An instruction that ends with an error had an error for its outcome. -/
theorem eq_error_of_conclude {s t : State} {o : OpOutcome} {e : ErrorKind} (h : conclude s o = .next t)
    (he : t.response = some (.error e)) : o = .error e := by
  rw [conclude_next h, conclude_response] at he
  exact Option.some.inj he

/-- The outcomes without an error whose result says nothing of the state: a byte, a buffer, no result, a refusal. -/
def OpOutcome.Plain : OpOutcome → Prop
  | .ok (.byte _) | .ok (.buffer _) | .ok .nothing | .refused _ => True
  | _ => False

theorem OpOutcome.Plain.ne_error {o : OpOutcome} (h : o.Plain) (e : ErrorKind) : o ≠ .error e := by
  rintro rfl
  exact h

theorem opChkFold_plain (P : Params) (acc : Byte) (b : List Byte) : (opChkFold P acc b).Plain := by
  unfold opChkFold
  split <;> trivial

theorem opEncFrame_plain (P : Params) (c : List Byte) : (opEncFrame P c).Plain := by
  unfold opEncFrame
  split
  · trivial
  · split <;> trivial

theorem opEncCmd_plain (cmd : Byte) : (opEncCmd cmd).Plain := by
  unfold opEncCmd
  split <;> trivial

section
variable (P : Params) (s : State)

theorem opEncStr_plain (b : List Byte) : (opEncStr P s b).Plain := by
  unfold opEncStr
  split
  · trivial
  · split <;> trivial

theorem opDecStr_plain (b : List Byte) : (opDecStr P s b).Plain := by
  unfold opDecStr
  split
  · trivial
  · split <;> trivial

/-- ENCBLK hands over a block while a key is held, and is refused while none is (R83). -/
theorem opEncBlk_cases (v0 v1 : Word) :
    (s.keyValid = true ∧ ∃ a b, opEncBlk P s v0 v1 = .ok (.words a b)) ∨
    opEncBlk P s v0 v1 = .refused .keyNotValid := by
  cases h : s.keyValid with
  | true => exact .inl ⟨rfl, _, _, opEncBlk_of_valid P h v0 v1⟩
  | false => exact .inr (opEncBlk_of_invalid P h v0 v1)

/-- DECBLK hands over a block while a key is held, and is refused while none is (R83). -/
theorem opDecBlk_cases (v0 v1 : Word) :
    (s.keyValid = true ∧ ∃ a b, opDecBlk P s v0 v1 = .ok (.words a b)) ∨
    opDecBlk P s v0 v1 = .refused .keyNotValid := by
  cases h : s.keyValid with
  | true => exact .inl ⟨rfl, _, _, opDecBlk_of_valid P h v0 v1⟩
  | false => exact .inr (opDecBlk_of_invalid P h v0 v1)

end

/-- An outcome that is a block or a refusal is no error. -/
theorem ne_error_of_block {o : OpOutcome} {held : Prop} {r : RefusalReason}
    (h : (held ∧ ∃ a b, o = .ok (.words a b)) ∨ o = .refused r) (e : ErrorKind) : o ≠ .error e := by
  rcases h with ⟨_, a, b, rfl⟩ | rfl <;> nofun

/-- KEYDERIVE raises no error (R82(a)). -/
theorem exec_keyDerive_response_ne_error {p : List Byte} {s t : State} (h : exec (.keyDerive p) s = .next t)
    (e : ErrorKind) : t.response ≠ some (.error e) := by
  rcases exec_keyDerive_cases h with ⟨_, _, hresp, _⟩ | ⟨_, hresp, _⟩ <;> rw [hresp] <;> nofun

/-- Phases 3 and 4 raise framing errors only (R59). -/
theorem decodeConsumed_error {lowerOk : Bool} {used : List Byte} {e : ErrorKind}
    (h : decodeConsumed lowerOk used = .error e) : e.code = 0x2 := by
  unfold decodeConsumed at h
  split at h
  · cases h; rfl
  · split at h <;> cases h
    rfl

theorem decodeBody_error {P : Params} {raw : List Byte} {len : Nat} {e : ErrorKind}
    (h : decodeBody P raw len = .error e) : e.code = 0x1 ∨ e.code = 0x2 := by
  unfold decodeBody at h
  split at h
  · cases h
  · split at h
    · cases h
      exact .inl rfl
    · exact .inr (decodeConsumed_error h)

/-- DECFRAME raises transport and framing errors only (R101, R102). -/
theorem opDecFrame_error {P : Params} {raw : List Byte} {e : ErrorKind} (h : opDecFrame P raw = .error e) :
    e.code = 0x1 ∨ e.code = 0x2 := by
  rcases Nat.lt_or_ge raw.length 3 with hshort | h3
  · rw [opDecFrame_short P raw hshort] at h
    cases h
    exact .inl rfl
  cases hd : declaredLength P.hexLowerOk raw with
  | none =>
    obtain ⟨offset, herr⟩ := opDecFrame_bad_header P raw h3 hd
    cases herr.symm.trans h
    exact .inr rfl
  | some len => exact decodeBody_error ((opDecFrame_body P raw len h3 hd).symm.trans h)

/-- VERIFY raises the checksum error only (R103). -/
theorem opVerify_error {P : Params} {p : List Byte} {e : ErrorKind} (h : opVerify P p = .error e) :
    e.code = 0x3 := by
  unfold opVerify at h
  split at h
  · cases h
  · split at h <;> cases h
    rfl

/-- IDDECODE raises the checksum and the encoding error only (R103, R104). -/
theorem opIdDecode_error {P : Params} {p : List Byte} {e : ErrorKind} (h : opIdDecode P p = .error e) :
    e.code = 0x3 ∨ e.code = 0x4 := by
  unfold opIdDecode at h
  split at h
  · cases h
  · split at h
    · cases h
      exact .inl rfl
    · split at h <;> cases h
      exact .inr rfl

/-- Settles O15: operation by operation, the errors it raises. -/
theorem errorKindsAreRaisedOnlyWhereListed : Obligations.ErrorKindsAreRaisedOnlyWhereListed := by
  intro i s t e h he
  cases i with
  | decFrame raw => exact .inl ⟨opDecFrame_error (eq_error_of_conclude h he), .inl ⟨raw, rfl⟩⟩
  | responseFrame raw => exact .inl ⟨opDecFrame_error (eq_error_of_conclude h he), .inr ⟨raw, rfl⟩⟩
  | verify p => exact .inr (.inl ⟨opVerify_error (eq_error_of_conclude h he), .inl ⟨p, rfl⟩⟩)
  | idDecode p =>
    rcases opIdDecode_error (eq_error_of_conclude h he) with hchk | htext
    · exact .inr (.inl ⟨hchk, .inr ⟨p, rfl⟩⟩)
    · exact .inr (.inr ⟨htext, p, rfl⟩)
  | keyDerive p => exact absurd he (exec_keyDerive_response_ne_error h e)
  | chkSum b => exact absurd (eq_error_of_conclude h he) ((opChkFold_plain device 0 b).ne_error e)
  | chkFold acc b => exact absurd (eq_error_of_conclude h he) ((opChkFold_plain device acc b).ne_error e)
  | encFrame c | requestFrame c =>
    exact absurd (eq_error_of_conclude h he) ((opEncFrame_plain device c).ne_error e)
  | encCmd cmd => exact absurd (eq_error_of_conclude h he) ((opEncCmd_plain cmd).ne_error e)
  | encBlk v0 v1 => exact absurd (eq_error_of_conclude h he) (ne_error_of_block (opEncBlk_cases device s v0 v1) e)
  | decBlk v0 v1 => exact absurd (eq_error_of_conclude h he) (ne_error_of_block (opDecBlk_cases device s v0 v1) e)
  | encStr b => exact absurd (eq_error_of_conclude h he) ((opEncStr_plain device s b).ne_error e)
  | decStr b => exact absurd (eq_error_of_conclude h he) ((opDecStr_plain device s b).ne_error e)
  | reservedC | reservedD | reservedE | reservedF | getIdentity => cases eq_error_of_conclude h he

/-- Settles O16: one code a kind. -/
theorem outcomeCodesAreTheTable : Obligations.OutcomeCodesAreTheTable :=
  ⟨fun _ => rfl, fun _ _ _ => rfl, fun _ => rfl, fun _ _ => rfl, rfl, fun _ => rfl⟩

/-! ### Reserved codes -/

/-- Settles O59: a reserved code selects its own row, and the row ends with the refusal alone. -/
theorem reservedCodesAreRefused : Obligations.ReservedCodesAreRefused := fun _ _ =>
  ⟨⟨rfl, rfl, rfl, rfl⟩, rfl, rfl, rfl, rfl⟩

/-! ### Finite buffers -/

theorem bufferFits_eq_false {P : Params} {m n : Nat} (hP : P.maxBuf = some m) (h : m < n) :
    bufferFits P n = false := by
  rw [bufferFits, hP]
  exact decide_eq_false (Nat.not_le.mpr h)

section
variable {P : Params} {b : List Byte} (h : bufferFits P b.length = false)
include h

theorem opChkFold_of_unfit (acc : Byte) : opChkFold P acc b = .refused .bufferTooLong := by
  simp [opChkFold, h]

theorem opEncFrame_of_unfit (hb : b.length ≤ maxContent) : opEncFrame P b = .refused .bufferTooLong := by
  simp [opEncFrame, h, Nat.not_lt.mpr hb]

theorem keyDeriveRefusal_of_unfit (hb : minKeyPayload ≤ b.length) :
    keyDeriveRefusal P b = some .bufferTooLong := by
  simp [keyDeriveRefusal, h, Nat.not_lt.mpr hb]

end

/-- Settles O60: each operation's capacity test, once its own refusals are out of the way. -/
theorem absentCompanionAndFiniteBuffersRefuse : Obligations.AbsentCompanionAndFiniteBuffersRefuse := by
  refine ⟨fun P p hP => ⟨?verifyAbsent, ?idDecodeAbsent⟩, fun P m acc b hP hb => ?buffers,
    fun P m s b hP hb hkey => ?streams, fun P m len raw hP h3 hd hlen => ?frame⟩
  case verifyAbsent => exact opVerify_of_refused (companionRefusal_of_absent hP)
  case idDecodeAbsent => exact opIdDecode_of_refused (companionRefusal_of_absent hP)
  case buffers =>
    have hfit := bufferFits_eq_false hP hb
    exact ⟨opChkFold_of_unfit hfit 0, opChkFold_of_unfit hfit acc, opEncFrame_of_unfit hfit,
      fun s hlen => runKeyDerive_of_refused (keyDeriveRefusal_of_unfit hfit hlen) s,
      fun hid hlen => opVerify_of_refused (companionRefusal_of_unfit hid hlen hfit),
      fun hid hlen => opIdDecode_of_refused (companionRefusal_of_unfit hid hlen hfit)⟩
  case streams =>
    have hfit := bufferFits_eq_false hP hb
    exact ⟨opEncStr_of_unfit hkey hfit, opDecStr_of_unfit hkey hfit⟩
  case frame => rw [opDecFrame_body P raw len h3 hd, decodeBody_of_unfit raw (bufferFits_eq_false hP hlen)]

end Sys2Proof.Machine
end

section
/-! The step and the run: what each host action does to the state, the key machine that a run follows, and the
invariant (10_state.md section 2, 70_reset_and_hazards.md R115, R125). -/

namespace Sys2Proof.Machine

/-! ### Reset and the step, action by action -/

/-- Settles O1: by the definition of reset. -/
theorem resetHoldsNoValidKey : Obligations.ResetHoldsNoValidKey := ⟨rfl, rfl, rfl, rfl⟩

theorem step_of_idle {s : State} (hp : s.program = []) : step s = .next s := by
  rw [step, hp]

section
variable {s : State} {rest : List HostAction}

theorem step_of_reset (hp : s.program = .reset :: rest) :
    step s = .next ({ s with program := rest } : State).applyReset := by
  rw [step, hp]

theorem step_of_decoded {inv : Invocation} {i : Instr} (hp : s.program = .invoke inv :: rest)
    (hd : decode inv = .ok i) : step s = exec i { s with program := rest } := by
  simp only [step, hp, hd]

theorem step_of_undecoded {inv : Invocation} {e : DecodeError} (hp : s.program = .invoke inv :: rest)
    (hd : decode inv = .error e) : step s = conclude { s with program := rest } (undecodedOutcome e) := by
  simp only [step, hp, hd, execUndecoded]

end

/-- Settles O2: reset as an action of the host. -/
theorem resetActionClearsKeyValid : Obligations.ResetActionClearsKeyValid := fun _ _ hp =>
  ⟨_, step_of_reset hp, rfl, rfl, rfl, rfl, rfl⟩

/-- Settles O3: the step on each kind of form, decoded or not. -/
theorem stepRunsTheDecodedInvocation : Obligations.StepRunsTheDecodedInvocation := by
  refine ⟨fun s inv rest i hp hd _ => step_of_decoded hp hd, fun s => step_of_idle,
    fun s cmd rest hp hcmd => ?command, fun s chars rest e hp hd => ?requestText,
    fun s raw rest e hp hd => ?responseText⟩
  case command => rw [step_of_undecoded hp (decode_command_of_ne hcmd), undecodedOutcome, conclude_refused]
  case requestText =>
    rw [step_of_undecoded hp hd, decode_requestText_error hd, undecodedOutcome, illegalOp, conclude_refused]
  case responseText => rw [step_of_undecoded hp hd, decode_responseText_error hd, undecodedOutcome, exec_decFrame]

/-! ### The key machine -/

section
variable {inv : Invocation} (k : KeyState)

theorem after_of_undecoded {e : DecodeError} (hd : decode inv = .error e) : k.after (.invoke inv) = k := by
  simp only [KeyState.after, hd]

theorem after_of_ne_keyDerive {i : Instr} (hd : decode inv = .ok i) (hi : ∀ p, i ≠ .keyDerive p) :
    k.after (.invoke inv) = k := by
  simp only [KeyState.after, hd]
  split
  · next p hp => exact absurd (Except.ok.inj hp) (hi p)
  · rfl

variable {p : List Byte} (hd : decode inv = .ok (.keyDerive p))
include hd

theorem after_of_refused {r : RefusalReason} (hr : keyDeriveRefusal device p = some r) :
    k.after (.invoke inv) = k := by
  simp only [KeyState.after, hd, hr]

theorem after_of_accepted (hr : keyDeriveRefusal device p = none) :
    k.after (.invoke inv) = ⟨deriveKey device.keymap p, true⟩ := by
  simp only [KeyState.after, hd, hr]

end

/-- All that an invocation can do to the key machine: nothing, or write a derived key. -/
theorem after_invoke_cases (k : KeyState) (inv : Invocation) :
    k.after (.invoke inv) = k ∨
    ∃ p : List Byte, 32 ≤ p.length ∧ k.after (.invoke inv) = ⟨deriveKey device.keymap p, true⟩ := by
  cases hd : decode inv with
  | error e => exact .inl (after_of_undecoded k hd)
  | ok i =>
    by_cases hi : ∃ p, i = .keyDerive p
    · obtain ⟨p, rfl⟩ := hi
      cases hr : keyDeriveRefusal device p with
      | some r => exact .inl (after_of_refused k hd hr)
      | none => exact .inr ⟨p, ((keyDeriveRefusal_none _ _).mp hr).1, after_of_accepted k hd hr⟩
    · exact .inl (after_of_ne_keyDerive k hd fun p hp => hi ⟨p, hp⟩)

/-- An instruction moves the architectural state as the key machine does. -/
theorem exec_keyState_after {inv : Invocation} {i : Instr} {s t : State} (hd : decode inv = .ok i)
    (h : exec i s = .next t) : t.keyState = s.keyState.after (.invoke inv) := by
  by_cases hi : ∃ p, i = .keyDerive p
  · obtain ⟨p, rfl⟩ := hi
    rcases exec_keyDerive_cases h with ⟨r, hr, _, hkept⟩ | ⟨hr, _, hwritten⟩
    · rw [hkept, after_of_refused _ hd hr]
    · rw [hwritten, after_of_accepted _ hd hr]
  · rw [after_of_ne_keyDerive _ hd fun p hp => hi ⟨p, hp⟩]
    exact (exec_keyState h).resolve_right fun hok => hi hok.1

/-- A step takes the next action from the program and moves the architectural state as the key machine does on that
action. -/
theorem step_keyState {s t : State} {a : HostAction} {rest : List HostAction} (hp : s.program = a :: rest)
    (h : step s = .next t) : t.keyState = s.keyState.after a ∧ t.program = rest := by
  cases a with
  | reset =>
    cases (step_of_reset hp).symm.trans h
    exact ⟨rfl, rfl⟩
  | invoke inv =>
    cases hd : decode inv with
    | ok i =>
      rw [step_of_decoded hp hd] at h
      exact ⟨exec_keyState_after (s := { s with program := rest }) hd h, (exec_frame h).1⟩
    | error e =>
      rw [step_of_undecoded hp hd] at h
      rw [conclude_next h, conclude_keyState, conclude_program, after_of_undecoded _ hd]
      exact ⟨rfl, rfl⟩

/-- Settles O19: by induction on the number of steps, each taking one action; an idle step changes nothing. -/
theorem runFollowsTheKeyMachine : Obligations.RunFollowsTheKeyMachine := by
  intro n
  induction n with
  | zero =>
    intro s t h
    obtain rfl : s = t := Host.Outcome.next.inj h
    exact ⟨rfl, rfl⟩
  | succ n ih =>
    intro s t h
    obtain ⟨s', hstep, hrun⟩ := run_succ_cases n h
    obtain ⟨hkey, hprogram⟩ := ih s' t hrun
    cases hp : s.program with
    | nil =>
      obtain rfl : s = s' := Host.Outcome.next.inj ((step_of_idle hp).symm.trans hstep)
      rw [hp, List.take_nil] at hkey
      rw [hp, List.drop_nil] at hprogram
      exact ⟨hkey, hprogram⟩
    | cons a rest =>
      obtain ⟨hkey', rfl⟩ := step_keyState hp hstep
      rw [List.take_succ_cons, List.foldl_cons, ← hkey', List.drop_succ_cons]
      exact ⟨hkey, hprogram⟩

/-- Settles O20: by induction on the number of actions still to come; every step answers and takes one. -/
theorem everyProgramRunsToItsEnd : Obligations.EveryProgramRunsToItsEnd := by
  intro s
  induction hn : s.program.length generalizing s with
  | zero => exact ⟨s, rfl, List.eq_nil_of_length_eq_zero hn⟩
  | succ n ih =>
    obtain ⟨s', hstep, htail⟩ := step_next s
    obtain ⟨t, hrun, hend⟩ := ih s' (by rw [htail, List.length_tail, hn, Nat.add_sub_cancel])
    exact ⟨t, (run_succ_next n hstep).trans hrun, hend⟩

/-! ### What no step undoes -/

/-- No invocation clears the valid bit (R12). -/
theorem after_valid {k : KeyState} (inv : Invocation) (h : k.valid = true) :
    (k.after (.invoke inv)).valid = true := by
  rcases after_invoke_cases k inv with hkept | ⟨p, _, hwritten⟩
  · rwa [hkept]
  · rw [hwritten]

/-- Settles O10: the key machine keeps a valid bit over every action but a reset. -/
theorem keyValidIsClearedOnlyByReset : Obligations.KeyValidIsClearedOnlyByReset := by
  intro s t h hvalid hreset
  cases hp : s.program with
  | nil =>
    cases (step_of_idle hp).symm.trans h
    exact hvalid
  | cons a rest =>
    obtain ⟨hkey, _⟩ := step_keyState hp h
    cases a with
    | reset => exact absurd (congrArg List.head? hp) hreset
    | invoke inv =>
      rw [← keyState_valid, hkey]
      exact after_valid inv hvalid

/-- Settles O11: each kind of step leaves the mark or sets it. -/
theorem refusalMarkIsNeverCleared : Obligations.RefusalMarkIsNeverCleared := by
  intro s t h hmark
  rcases step_cases h with ⟨_, rfl⟩ | ⟨rest, _, rfl⟩ | ⟨inv, rest, i, _, _, hexec⟩ | ⟨inv, rest, e, _, _, rfl⟩
  · exact hmark
  · exact hmark
  · exact (exec_frame hexec).2 hmark
  · rw [conclude_refusedMark]
    exact Bool.or_eq_true_iff.mpr (.inl hmark)

/-! ### The last response fits the state -/

/-- The outcome fits the state it is delivered in. -/
def Delivers (s : State) (o : OpOutcome) : Prop := ResponseFits (s.conclude o) o

theorem delivers_error (s : State) (e : ErrorKind) : Delivers s (.error e) := trivial

theorem delivers_refused (s : State) (r : RefusalReason) : Delivers s (.refused r) := rfl

theorem OpOutcome.Plain.delivers {o : OpOutcome} (h : o.Plain) (s : State) : Delivers s o := by
  match o, h with
  | .ok (.byte _), _ | .ok (.buffer _), _ | .ok .nothing, _ => trivial
  | .refused r, _ => exact delivers_refused s r

theorem delivers_of_block {s : State} {o : OpOutcome} {r : RefusalReason}
    (h : (s.keyValid = true ∧ ∃ a b, o = .ok (.words a b)) ∨ o = .refused r) : Delivers s o := by
  rcases h with ⟨hvalid, a, b, rfl⟩ | rfl
  · exact hvalid
  · exact delivers_refused s r

/-- A delivered payload begins with the declared length, and its digits are at most the consumed bytes (R55, R62,
R63). -/
theorem payload_fits {P : Params} {raw : List Byte} {v : Value} (h : opDecFrame P raw = .ok v) (s : State) :
    ResponseFits s (.ok v) := by
  obtain ⟨len, hd, _, hlen, _, _, rfl⟩ := opDecFrame_eq_ok_iff.mp h
  obtain ⟨x, rest, hp, rfl⟩ := hexPairs_strip_take_eq_cons hd (3 * len + 6)
  refine ⟨x, rest, hp, rfl, ?_⟩
  have hstrip := List.length_filter_le (fun c => !isStripped c) (raw.take (3 * x.toNat + 8))
  rw [List.length_take_of_le hlen] at hstrip
  rw [hexPairs_length, strip]
  omega

theorem opDecFrame_delivers (P : Params) (raw : List Byte) (s : State) : Delivers s (opDecFrame P raw) := by
  cases h : opDecFrame P raw with
  | ok v => exact payload_fits h _
  | error e => exact delivers_error s e
  | refused r => exact delivers_refused s r

theorem opVerify_delivers (P : Params) (p : List Byte) (s : State) : Delivers s (opVerify P p) := by
  unfold opVerify
  split
  · exact delivers_refused s _
  · split
    · trivial
    · exact delivers_error s _

/-- A delivered record has the nine serial bytes that a payload of 17 bytes has, and cuts within them (R92, R93). -/
theorem record_fits {p : List Byte} (h : 17 ≤ p.length) (ws : List Byte) (s : State) :
    ResponseFits s (.ok (.record (identityRecord ws p))) :=
  have hlen := serialField_length h
  ⟨hlen, (trimLen_le_length ws (serialField p)).trans hlen.le⟩

theorem opIdDecode_delivers (P : Params) (p : List Byte) (s : State) : Delivers s (opIdDecode P p) := by
  unfold opIdDecode
  split
  · exact delivers_refused s _
  · next haccepted =>
    obtain ⟨_, hlen, _⟩ := (companionRefusal_none _ _ _).mp haccepted
    split
    · exact delivers_error s _
    · split
      · exact delivers_error s _
      · exact record_fits hlen _ _

theorem undecodedOutcome_delivers (e : DecodeError) (s : State) : Delivers s (undecodedOutcome e) := by
  cases e with
  | noSuchCommand | notARequestFrame => exact delivers_refused s _
  | notAResponseFrame raw => exact opDecFrame_delivers device raw s

/-- Every instruction but KEYDERIVE ends with an outcome that fits. -/
theorem exec_delivers (i : Instr) (s : State) :
    (∃ o, exec i s = conclude s o ∧ Delivers s o) ∨ ∃ p, i = .keyDerive p := by
  cases i with
  | keyDerive p => exact .inr ⟨p, rfl⟩
  | chkSum b => exact .inl ⟨_, rfl, (opChkFold_plain device 0 b).delivers s⟩
  | chkFold acc b => exact .inl ⟨_, rfl, (opChkFold_plain device acc b).delivers s⟩
  | encFrame c | requestFrame c => exact .inl ⟨_, rfl, (opEncFrame_plain device c).delivers s⟩
  | encCmd cmd => exact .inl ⟨_, rfl, (opEncCmd_plain cmd).delivers s⟩
  | decFrame raw | responseFrame raw => exact .inl ⟨_, rfl, opDecFrame_delivers device raw s⟩
  | verify p => exact .inl ⟨_, rfl, opVerify_delivers device p s⟩
  | idDecode p => exact .inl ⟨_, rfl, opIdDecode_delivers device p s⟩
  | encBlk v0 v1 => exact .inl ⟨_, rfl, delivers_of_block (opEncBlk_cases device s v0 v1)⟩
  | decBlk v0 v1 => exact .inl ⟨_, rfl, delivers_of_block (opDecBlk_cases device s v0 v1)⟩
  | encStr b => exact .inl ⟨_, rfl, (opEncStr_plain device s b).delivers s⟩
  | decStr b => exact .inl ⟨_, rfl, (opDecStr_plain device s b).delivers s⟩
  | reservedC | reservedD | reservedE | reservedF => exact .inl ⟨_, rfl, delivers_refused s .illegalOp⟩
  | getIdentity => exact .inl ⟨_, rfl, trivial⟩

/-- The response after the end of an operation fits if its outcome does. -/
theorem responseFits_of_conclude {s t : State} {o o' : OpOutcome} (h : conclude s o = .next t)
    (hfits : Delivers s o) (hresp : t.response = some o') : ResponseFits t o' := by
  obtain rfl := conclude_next h
  obtain rfl : o = o' := Option.some.inj ((conclude_response s o).symm.trans hresp)
  exact hfits

theorem exec_responseFits {i : Instr} {s t : State} {o : OpOutcome} (h : exec i s = .next t)
    (hresp : t.response = some o) : ResponseFits t o := by
  rcases exec_delivers i s with ⟨o', ho', hfits⟩ | ⟨p, rfl⟩
  · exact responseFits_of_conclude (ho'.symm.trans h) hfits hresp
  · obtain rfl : runKeyDerive device p s = t := Host.Outcome.next.inj h
    rcases runKeyDerive_cases device p s with ⟨r, _, hend⟩ | ⟨_, hend⟩
    · rw [hend] at hresp ⊢
      cases hresp
      rfl
    · rw [hend] at hresp ⊢
      cases hresp
      trivial

/-! ### The invariant -/

/-- A valid key is the key that some payload of at least 32 bytes gives (R12, R71). -/
def KeyState.Derived (k : KeyState) : Prop :=
  k.valid = true → ∃ p : List Byte, 32 ≤ p.length ∧ k.key = deriveKey device.keymap p

/-- The key machine writes derived keys only. -/
theorem derived_after {k : KeyState} (h : k.Derived) (a : HostAction) : (k.after a).Derived := by
  cases a with
  | reset => exact nofun
  | invoke inv =>
    rcases after_invoke_cases k inv with hkept | ⟨p, hlen, hwritten⟩
    · rwa [hkept]
    · rw [hwritten]
      exact fun _ => ⟨p, hlen, rfl⟩

/-- Settles O17: no valid key and no response. -/
theorem invariantHoldsAtReset : Obligations.InvariantHoldsAtReset := ⟨nofun, nofun⟩

/-- A step that takes an action leaves a response that fits, or none. -/
theorem step_responseFits {s t : State} {a : HostAction} {rest : List HostAction} {o : OpOutcome}
    (hp : s.program = a :: rest) (h : step s = .next t) (hresp : t.response = some o) : ResponseFits t o := by
  cases a with
  | reset =>
    cases (step_of_reset hp).symm.trans h
    cases hresp
  | invoke inv =>
    cases hd : decode inv with
    | ok i => exact exec_responseFits ((step_of_decoded hp hd).symm.trans h) hresp
    | error e =>
      exact responseFits_of_conclude ((step_of_undecoded hp hd).symm.trans h) (undecodedOutcome_delivers e _) hresp

/-- Settles O18: the key half follows the key machine, and the response half is new with every action. -/
theorem everyStepKeepsTheInvariant : Obligations.EveryStepKeepsTheInvariant := by
  intro s t hinv h
  cases hp : s.program with
  | nil =>
    obtain rfl : s = t := Host.Outcome.next.inj ((step_of_idle hp).symm.trans h)
    exact hinv
  | cons a rest =>
    have hbefore : s.keyState.Derived := hinv.keyIsDerived
    have hkey : t.keyState.Derived := by
      rw [(step_keyState hp h).1]
      exact derived_after hbefore a
    exact ⟨hkey, fun _ => step_responseFits hp h⟩

end Sys2Proof.Machine
end
